-- ==== Sys2Proof/Word.lean ====
section
/-! DEFINITION. The word types of the block: an IEEE binary32 pattern, the 40-bit command word, the 32-bit
output frame word, and what one of the two input ports can carry. -/

namespace Sys2Proof

/-- `F32` (rule R13): a binary32 value held as its 32-bit pattern, bit 31 the sign, 30:23 the exponent,
22:0 the fraction. Its arithmetic is in `Machine/Float.lean`. -/
abbrev F32 := BitVec 32

/-- A command word (rule R82): `op` in 39:32, `arg` in 31:0. -/
abbrev CommandWord := BitVec 40

/-- An output frame word (rules R96, R210): left sample in 15:0, right sample in 31:16. -/
abbrev FrameWord := BitVec 32

/-- One word as a port carries it. The block has two input ports and no program memory (rules R51, R97):
a 40-bit word on the command port (R82), or the one bit `a` of a render request (R95). -/
inductive PortWord where
  | cmd (w : CommandWord)
  | request (a : Bool)
  deriving DecidableEq, Repr

end Sys2Proof
end

