-- ==== Sys2Proof/Config.lean ====
section
/-! DEFINITION. The build parameters of rule R8 as one plain-data record, the build the reset state belongs to,
and the values the spec leaves open (constants without a body). -/

namespace Sys2Proof

/-- `ECHO_WET_TAP` (rules R8, R195, R198): which signal the echo mixes in as wet, `y` or `delayed`. -/
inductive WetTap where
  | y
  | d
  deriving DecidableEq, Repr

/-- The primitives whose NaN results carry an open payload. -/
inductive FloatOp where
  | add
  | sub
  | mul
  | div
  | tanh
  deriving DecidableEq, Repr

/-- The build parameters of rule R8. `K_VOICES` is 8 (R7) and `AGE_BITS` 32 (R8) in the types of the state;
`SINE_SIZE` is the length of the sine ROM the state holds (R49). -/
structure Config where
  /-- `SAMPLE_RATE`, frames per second. -/
  sampleRate : Nat
  /-- `BLOCK_SIZE`, frames per render. -/
  blockSize : Nat
  /-- `ECHO_CAP`, cells of the echo RAM. -/
  echoCap : Nat
  /-- `ATTACK_S`, seconds. -/
  attackS : F32
  /-- `DECAY_S`, seconds. -/
  decayS : F32
  /-- `RELEASE_S`, seconds. -/
  releaseS : F32
  /-- `SUSTAIN_LEVEL`. -/
  sustainLevel : F32
  /-- `ENV_EPS`, seconds. -/
  envEps : F32
  /-- `PAD_ALPHA`, the preset-3 filter coefficient. -/
  padAlpha : F32
  /-- `LCG_SEED`. -/
  lcgSeed : BitVec 32
  /-- `ECHO_WET_TAP`. -/
  wetTap : WetTap
  /-- `RST_PRESET`. -/
  rstPreset : BitVec 2
  /-- `RST_MASTER_GAIN`. -/
  rstMasterGain : F32
  /-- `RST_ECHO_ON`. -/
  rstEchoOn : Bool
  /-- `RST_ECHO_MIX`. -/
  rstEchoMix : F32
  /-- `RST_ECHO_FB`. -/
  rstEchoFb : F32
  /-- `RST_ECHO_MS`. -/
  rstEchoMs : F32
  deriving DecidableEq, Repr

/-- Open: `BLOCK_SIZE - 1` (R8 gives `BLOCK_SIZE ≥ 1` and no value; D10). Log entry 2. -/
opaque Config.blockSizeOpen : Nat

/-- Open: the pattern of `ATTACK_S`, any finite non-negative F32 (R8, D12). Log entry 2. -/
opaque Config.attackOpen : Fin 0x7F800000

/-- Open: the pattern of `DECAY_S`, any finite non-negative F32 (R8, D12). Log entry 2. -/
opaque Config.decayOpen : Fin 0x7F800000

/-- Open: the pattern of `RELEASE_S`, any finite non-negative F32 (R8, D12). Log entry 2. -/
opaque Config.releaseOpen : Fin 0x7F800000

/-- Open: the pattern of `SUSTAIN_LEVEL`, any F32 from +0.0 to 1.0 (R8, D12). Log entry 2. -/
opaque Config.sustainOpen : Fin 0x3F800001

/-- Open: `LCG_SEED` (R8, D18). Log entry 2. -/
opaque Config.lcgSeedOpen : BitVec 32

/-- Open: sign and payload of the NaN an invalid operation gives (R14 says only "a quiet NaN"). Log entry 5. -/
opaque Config.nanOpen : FloatOp → F32 → F32 → F32

/-- Open: `ffloor` of a value that is not finite (R15 gives it for finite values). Log entry 6. -/
opaque Config.floorOpen : F32 → F32

/-- Open: `ftrunc` of a value that is not finite (R15 gives it for finite values). Log entry 6. -/
opaque Config.truncOpen : F32 → Int

/-- Open: `Lookup` where the table index is not defined, a NaN or infinite phase (R111 item 6). Log entry 4. -/
opaque Config.lookupOpen : F32 → F32

/-- The build whose reset state `Machine.State.reset` is: the defaults of rule R8 where it gives one, an open
constant where it says OPEN. Every definition of the model reads the build from the state, so it covers every
other build too. Log entries 2 and 3. -/
def Config.build : Config where
  sampleRate := 44100
  blockSize := Config.blockSizeOpen + 1
  echoCap := 36000
  attackS := BitVec.ofNat 32 Config.attackOpen.val
  decayS := BitVec.ofNat 32 Config.decayOpen.val
  releaseS := BitVec.ofNat 32 Config.releaseOpen.val
  sustainLevel := BitVec.ofNat 32 Config.sustainOpen.val
  envEps := 0x38D1B717#32
  padAlpha := 0x3E19999A#32
  lcgSeed := Config.lcgSeedOpen
  wetTap := .y
  rstPreset := 0#2
  rstMasterGain := 0#32
  rstEchoOn := false
  rstEchoMix := 0#32
  rstEchoFb := 0#32
  rstEchoMs := 0x41F00000#32

end Sys2Proof
end

