-- ==== Sys2Proof/Machine/Float.lean ====
section
/-! DEFINITION. IEEE 754 binary32 arithmetic as rules R13 to R16 give it, over exact integers: every finite F32
is an integer multiple of 2^-149, so each operation computes the exact result in those units and rounds once
(`rn`, round to nearest, ties to even). The literals of rule R18. -/

namespace Sys2Proof.Machine

/-- The sign, bit 31 (R13). -/
def signBit (a : F32) : Bool := a.getLsbD 31

/-- The exponent field, bits 30:23 (R13). -/
def expField (a : F32) : Nat := (a.extractLsb' 23 8).toNat

/-- The fraction field, bits 22:0 (R13). -/
def fracField (a : F32) : Nat := (a.extractLsb' 0 23).toNat

/-- A NaN: exponent all ones, fraction not zero. -/
def isNan (a : F32) : Bool := expField a == 255 && fracField a != 0

/-- An infinity: exponent all ones, fraction zero. -/
def isInf (a : F32) : Bool := expField a == 255 && fracField a == 0

/-- Neither infinite nor a NaN. -/
def isFinite (a : F32) : Bool := expField a != 255

/-- The magnitude of a finite value in units of 2^-149; subnormals are kept (R14). -/
def magUnits (a : F32) : Nat :=
  if expField a = 0 then fracField a else (2 ^ 23 + fracField a) * 2 ^ (expField a - 1)

/-- The exact value of a finite F32 in units of 2^-149. -/
def units (a : F32) : Int := if signBit a then -(magUnits a : Int) else (magUnits a : Int)

/-- The integer nearest to `num / den`, ties to even. -/
def nearestEven (num den : Nat) : Nat :=
  let q := num / den
  let r := num % den
  if den < 2 * r ∨ (2 * r = den ∧ q % 2 = 1) then q + 1 else q

/-- Exponent and fraction bits of `RN` of the non-negative real `num / den · 2^-149` (R13, R14): the quotient is
rounded on the grid of its binade, never finer than 2^-149 (gradual underflow); overflow gives infinity. The sum
carries a mantissa of 2^24 into the exponent. -/
def roundMag (num den : Nat) : Nat :=
  let shift := Nat.log2 (num / den) - 23
  min (shift * 2 ^ 23 + nearestEven num (den * 2 ^ shift)) 0x7F800000

/-- `RN` of `± num / den · 2^-149`, `den > 0`. -/
def rn (neg : Bool) (num den : Nat) : F32 :=
  BitVec.ofNat 32 (roundMag num den + if neg then 2 ^ 31 else 0)

/-- A zero of the given sign. -/
def signedZero (neg : Bool) : F32 := if neg then 0x80000000#32 else 0#32

/-- An infinity of the given sign. -/
def signedInf (neg : Bool) : F32 := if neg then 0xFF800000#32 else 0x7F800000#32

/-- A quiet NaN whose sign and payload are open (R14; log entry 5). -/
def quietNan (op : FloatOp) (a b : F32) : F32 :=
  0x7FC00000#32 ||| (Config.nanOpen op a b &&& 0x803FFFFF#32)

/-- The value with its sign bit inverted. -/
def fneg (a : F32) : F32 := a ^^^ 0x80000000#32

/-- `fadd` (R14). An exact zero sum is +0 unless both operands are negative zeros. -/
def fadd (a b : F32) : F32 :=
  if isNan a || isNan b then quietNan .add a b
  else if isInf a then (if isInf b && (signBit a != signBit b) then quietNan .add a b else a)
  else if isInf b then b
  else if units a + units b = 0 then signedZero (signBit a && signBit b)
  else rn (decide (units a + units b < 0)) (units a + units b).natAbs 1

/-- `fsub` (R14). -/
def fsub (a b : F32) : F32 :=
  if isNan a || isNan b then quietNan .sub a b else fadd a (fneg b)

/-- `fmul` (R14). -/
def fmul (a b : F32) : F32 :=
  if isNan a || isNan b then quietNan .mul a b
  else if isInf a || isInf b then
    (if (!isInf a && magUnits a == 0) || (!isInf b && magUnits b == 0) then quietNan .mul a b
     else signedInf (signBit a != signBit b))
  else rn (signBit a != signBit b) (magUnits a * magUnits b) (2 ^ 149)

/-- `fdiv` (R14). -/
def fdiv (a b : F32) : F32 :=
  if isNan a || isNan b then quietNan .div a b
  else if isInf a then (if isInf b then quietNan .div a b else signedInf (signBit a != signBit b))
  else if isInf b then signedZero (signBit a != signBit b)
  else if magUnits b = 0 then
    (if magUnits a = 0 then quietNan .div a b else signedInf (signBit a != signBit b))
  else rn (signBit a != signBit b) (magUnits a * 2 ^ 149) (magUnits b)

/-- The place of a value that is no NaN in the order of the comparisons; both zeros have key 0 (R14). -/
def orderKey (a : F32) : Int :=
  if signBit a then -((a.extractLsb' 0 31).toNat : Int) else ((a.extractLsb' 0 31).toNat : Int)

/-- `a < b` (R14): false if either is a NaN. -/
def flt (a b : F32) : Bool := !isNan a && !isNan b && decide (orderKey a < orderKey b)

/-- `a <= b` (R14): false if either is a NaN. -/
def fle (a b : F32) : Bool := !isNan a && !isNan b && decide (orderKey a ≤ orderKey b)

/-- `a > b` (R14). -/
def fgt (a b : F32) : Bool := flt b a

/-- `a >= b` (R14). -/
def fge (a b : F32) : Bool := fle b a

/-- `RN` of an integer; exact for `|n| < 2^24` (R15). -/
def ofInt (n : Int) : F32 := rn (decide (n < 0)) (n.natAbs * 2 ^ 149) 1

/-- `i2f` (R15) of a natural number. -/
def i2f (n : Nat) : F32 := ofInt n

/-- `floorint` (R15): the largest integer not above a finite value; nothing where the value is not finite. -/
def floorInt (a : F32) : Option Int := if isFinite a then some (units a / 2 ^ 149) else none

/-- `ffloor` (R15). The floor 0 is +0.0 (log entry 6). -/
def ffloor (a : F32) : F32 := ((floorInt a).map ofInt).getD (Config.floorOpen a)

/-- `frac` (R15). -/
def frac (a : F32) : F32 := fsub a (ffloor a)

/-- `ftrunc` (R15): round toward zero. -/
def ftrunc (a : F32) : Int := if isFinite a then (units a).tdiv (2 ^ 149) else Config.truncOpen a

/-- `clampf` (R16): a NaN gives the lower bound, and a value in range is returned unchanged. -/
def clampf (x lo hi : F32) : F32 := if !fge x lo then lo else if fgt x hi then hi else x

/-- `clampi` (R11). -/
def clampi (x lo hi : Int) : Int := min (max x lo) hi

/-! The literals of rule R18, each the F32 nearest to the decimal the rules write. -/

/-- 0.0 -/
def Lit.zero : F32 := 0x00000000#32
/-- 1.0 -/
def Lit.one : F32 := 0x3F800000#32
/-- -1.0 -/
def Lit.minusOne : F32 := 0xBF800000#32
/-- 2.0 -/
def Lit.two : F32 := 0x40000000#32
/-- 3.0 -/
def Lit.three : F32 := 0x40400000#32
/-- 4.0 -/
def Lit.four : F32 := 0x40800000#32
/-- 0.5, preset 1 -/
def Lit.c0p5 : F32 := 0x3F000000#32
/-- 0.3, preset 1 -/
def Lit.c0p3 : F32 := 0x3E99999A#32
/-- 0.2, preset 1 -/
def Lit.c0p2 : F32 := 0x3E4CCCCD#32
/-- 1.5, preset 1 -/
def Lit.c1p5 : F32 := 0x3FC00000#32
/-- 0.35, preset 2 -/
def Lit.c0p35 : F32 := 0x3EB33333#32
/-- 0.15, preset 2 -/
def Lit.c0p15 : F32 := 0x3E19999A#32
/-- 0.9992, the decay of the preset-2 transient -/
def Lit.c0p9992 : F32 := 0x3F7FCB92#32
/-- 0.6, preset 3 -/
def Lit.c0p6 : F32 := 0x3F19999A#32
/-- 1.004, preset 3 -/
def Lit.c1p004 : F32 := 0x3F808312#32
/-- 0.996, preset 3 -/
def Lit.c0p996 : F32 := 0x3F7EF9DB#32
/-- 0.85, the bound of the echo feedback -/
def Lit.c0p85 : F32 := 0x3F59999A#32
/-- 30.0, the least echo time in milliseconds -/
def Lit.c30 : F32 := 0x41F00000#32
/-- 800.0, the greatest echo time in milliseconds -/
def Lit.c800 : F32 := 0x44480000#32
/-- 770.0, the span of the echo time (R91) -/
def Lit.c770 : F32 := 0x44408000#32
/-- 1000.0, milliseconds per second -/
def Lit.c1000 : F32 := 0x447A0000#32
/-- 127.0, the velocity scale -/
def Lit.c127 : F32 := 0x42FE0000#32
/-- 32767.0, the quantiser scale -/
def Lit.c32767 : F32 := 0x46FFFE00#32
/-- 16777216.0 = 2^24, the divisor of the noise sample (R182) -/
def Lit.c2p24 : F32 := 0x4B800000#32

end Sys2Proof.Machine
end

