-- ==== Sys2Proof/Machine/Numerics.lean ====
section
/-! DEFINITION. The numerics configuration of rule R17 at its reference values: `SINROM`, `NOTE_FREQ`, `NORM` and
`TANH`, each the F32 nearest to the exact real. The real sine and exponential are computed in fixed point with 256
fraction bits by their power series and rounded once by `rn` (log entry 7). -/

namespace Sys2Proof.Machine

/-- The fixed-point 1.0: 256 fraction bits. -/
def fixOne : Nat := 2 ^ 256

/-- π in fixed point, rounded down. -/
def fixPi : Nat := 0x3243F6A8885A308D313198A2E03707344A4093822299F31D0082EFA98EC4E6C89

/-- `fuel` terms of the series of the sine from `x^n / n!` on: each term is the one before it times
`-x² / ((n+1)(n+2))`. -/
def sinSeries : (fuel n : Nat) → (term square : Int) → Int
  | 0, _, _, _ => 0
  | fuel + 1, n, term, square =>
    term + sinSeries fuel (n + 2) (-(term * square / fixOne) / ((n + 1) * (n + 2))) square

/-- `sin x` in fixed point, for `x` in fixed point between 0 and π/2. -/
def fixSin (x : Nat) : Nat := (sinSeries 40 1 x (x * x / fixOne)).toNat

/-- `SINROM[k]` for `SINE_SIZE = 2^bits` (R17, R114): the first half period is symmetric about its middle and the
second half is its negative; both zeros are +0. -/
def sinRef (bits k : Nat) : F32 :=
  let size := 2 ^ bits
  let h := k % (size / 2)
  let q := min h (size / 2 - h)
  rn (decide (size / 2 < k % size)) (fixSin (2 * fixPi * q / size) * 2 ^ 149) fixOne

/-- The whole reference table for `SINE_SIZE = 2^bits`. -/
def sinRomRef (bits : Nat) : List F32 := (List.range (2 ^ bits)).map (sinRef bits)

/-- Octave 0 of the reference `NOTE_FREQ` (spec/95_test_vectors.md, T3). -/
def octaveZero : List F32 :=
  [0x4102D013#32, 0x410A9760#32, 0x4112D517#32, 0x411B9041#32, 0x4124D054#32, 0x412E9D37#32,
   0x4138FF49#32, 0x4143FF6A#32, 0x414FA700#32, 0x415C0000#32, 0x416914F6#32, 0x4176F110#32]

/-- `NOTE_FREQ[n]` in hertz (R17): doubling is exact, so each octave adds one to the exponent (T3). -/
def noteFreq (n : BitVec 7) : F32 :=
  octaveZero.getD (n.toNat % 12) 0#32 + BitVec.ofNat 32 (n.toNat / 12 * 2 ^ 23)

/-- `NORM` = `RN(1/sqrt(8))` (R17). -/
def normFactor : F32 := 0x3EB504F3#32

/-- `fuel` terms of the series of the exponential from `x^n / n!` on. -/
def expSeries : (fuel n term x : Nat) → Nat
  | 0, _, _, _ => 0
  | fuel + 1, n, term, x => term + expSeries fuel (n + 1) (term * x / fixOne / (n + 1)) x

/-- `times` squarings in fixed point. -/
def fixSquare : (times x : Nat) → Nat
  | 0, x => x
  | times + 1, x => fixSquare times (x * x / fixOne)

/-- `e^(2x)` in fixed point for a magnitude `x` in units of 2^-149: the series at `2x / 256`, then eight squarings. -/
def fixExpTwice (mag : Nat) : Nat := fixSquare 8 (expSeries 40 0 fixOne (mag * 2 ^ 100))

/-- The magnitude of the reference `TANH` at a non-negative F32 magnitude (R17): `x` itself up to 2^-13, where
`tanh x` is nearer to `x` than to any other F32; 1.0 from 0x41102CB4 on; between them `(e^2x - 1) / (e^2x + 1)`. -/
def tanhMag (mag : F32) : F32 :=
  if mag.toNat ≤ 0x39000000 then mag
  else if 0x41102CB4 ≤ mag.toNat then Lit.one
  else
    let e := fixExpTwice (magUnits mag)
    rn false ((e - fixOne) * 2 ^ 149) (e + fixOne)

/-- `TANH` (R17): odd, `TANH(±0) = ±0`, and a NaN gives a NaN. -/
def tanhRef (x : F32) : F32 :=
  if isNan x then quietNan .tanh x x
  else if signBit x then fneg (tanhMag (fneg x)) else tanhMag x

end Sys2Proof.Machine
end

