-- ==== Sys2Proof/Machine/Operands.lean ====
section
/-! DEFINITION. Operand assembly of the command word (rules R82, R83, R85), the clamps of the setters (rule R154),
and the build constants an operand is converted with (`FS`, the pitch and velocity maps, milliseconds to frames). -/

namespace Sys2Proof.Machine

/-- `op`, bits 39:32 of a command word (R82). -/
def opField (w : CommandWord) : BitVec 8 := w.extractLsb' 32 8

/-- `arg`, bits 31:0 of a command word (R82). -/
def argField (w : CommandWord) : BitVec 32 := w.extractLsb' 0 32

/-- `note = arg[6:0]`, formats N1 and N2 (R83). -/
def noteField (arg : BitVec 32) : BitVec 7 := arg.extractLsb' 0 7

/-- `vel = arg[14:8]`, format N2 (R83). -/
def velField (arg : BitVec 32) : BitVec 7 := arg.extractLsb' 8 7

/-- `val = arg[7:0]`, format U8 (R83). -/
def valField (arg : BitVec 32) : BitVec 8 := arg.extractLsb' 0 8

/-- `on = arg[0]`, format B (R83). -/
def onField (arg : BitVec 32) : Bool := arg.getLsbD 0

/-- `arg` with `vel` in 14:8 and `note` in 6:0, ignored bits zero (R83, R89). -/
def argNoteVel (note vel : BitVec 7) : BitVec 32 := (vel.setWidth 32 <<< 8) ||| note.setWidth 32

/-- A command word from its opcode and argument (R82). -/
def commandWord (op : BitVec 8) (arg : BitVec 32) : CommandWord := op ++ arg

/-- The gain and mix clamp, `[0, 1]` (R157, R159). -/
def clampUnit (f : F32) : F32 := clampf f Lit.zero Lit.one

/-- The feedback clamp, `[0, RN(0.85)]` (R160). -/
def clampFb (f : F32) : F32 := clampf f Lit.zero Lit.c0p85

/-- The echo-time clamp, `[30, 800]` (R161). -/
def clampMs (f : F32) : F32 := clampf f Lit.c30 Lit.c800

/-- The preset clamp `min(val, 3)` (R156). -/
def clampPreset (val : BitVec 8) : BitVec 2 := BitVec.ofNat 2 (min val.toNat 3)

/-- `FS = i2f(SAMPLE_RATE)` (R8). -/
def rateF32 (c : Config) : F32 := i2f c.sampleRate

/-- `IncOf(note)` (R139). -/
def incOf (c : Config) (note : BitVec 7) : F32 := fdiv (noteFreq note) (rateF32 c)

/-- The velocity gain (R142). -/
def velGainOf (vel : BitVec 7) : F32 := fdiv (i2f vel.toNat) Lit.c127

/-- `EchoLenOf(ms)` (R197). -/
def echoLenOf (c : Config) (ms : F32) : Nat :=
  (clampi (ftrunc (fdiv (fmul ms (rateF32 c)) Lit.c1000)) 1 ((c.echoCap : Int) - 1)).toNat

end Sys2Proof.Machine
end

