-- ==== Sys2Proof/Syntax.lean ====
section
/-! DEFINITION. The instructions of the block: the ten commands of rule R84 and the two forms of the render
request (rule R95), one constructor per row of spec/opcode_table.json. -/

namespace Sys2Proof

/-- An instruction. Operands have exactly the width their field has (rules R83, R85), so every operand value a
term can hold is one the encoding can carry. -/
inductive Instr where
  /-- NOP, rule R155. -/
  | nop
  /-- NOTE_ON, rule R140. -/
  | noteOn (note vel : BitVec 7)
  /-- NOTE_OFF, rule R145. -/
  | noteOff (note : BitVec 7)
  /-- ALL_NOTES_OFF, rule R147. -/
  | allNotesOff
  /-- SET_PRESET, rule R156. -/
  | setPreset (val : BitVec 8)
  /-- SET_MASTER_GAIN, rule R157. -/
  | setMasterGain (f : F32)
  /-- SET_ECHO_ON, rule R158. -/
  | setEchoOn (on : Bool)
  /-- SET_ECHO_MIX, rule R159. -/
  | setEchoMix (f : F32)
  /-- SET_ECHO_FB, rule R160. -/
  | setEchoFb (f : F32)
  /-- SET_ECHO_MS, rule R161. -/
  | setEchoMs (f : F32)
  /-- RENDER, the request with `a = 1`, rule R211. -/
  | render
  /-- RENDER_SKIP, the request with `a = 0`, rule R212. -/
  | renderSkip
  deriving DecidableEq, Repr

end Sys2Proof
end

