-- ==== Sys2Proof/WellFormed.lean ====
section
/-! DEFINITION. Well-formedness: of an instruction (every term is), and of a build against the constraints rule R8
puts on its parameters. -/

namespace Sys2Proof

open Sys2Proof.Machine

/-- Every instruction is well-formed: a field has exactly the width of its operand, so "no range check is needed"
(rule R85), and every setter "accepts every operand value that its field can express" (rule R154). -/
def Instr.wf : Instr → Bool
  | .nop => true
  | .noteOn _ _ => true
  | .noteOff _ => true
  | .allNotesOff => true
  | .setPreset _ => true
  | .setMasterGain _ => true
  | .setEchoOn _ => true
  | .setEchoMix _ => true
  | .setEchoFb _ => true
  | .setEchoMs _ => true
  | .render => true
  | .renderSkip => true

/-- `lo ≤ x ≤ hi` by the comparisons of rule R14; false for a NaN. -/
def inRange (x lo hi : F32) : Bool := fle lo x && fle x hi

/-- `1 ≤ SAMPLE_RATE < 2^24` (R8). -/
def Config.rateOk (c : Config) : Bool := decide (1 ≤ c.sampleRate) && decide (c.sampleRate < 2 ^ 24)

/-- `BLOCK_SIZE ≥ 1` and `ECHO_CAP ≥ 2` (R8). -/
def Config.sizesOk (c : Config) : Bool := decide (1 ≤ c.blockSize) && decide (2 ≤ c.echoCap)

/-- A stage time: finite and not negative (R8). -/
def Config.timeOk (t : F32) : Bool := isFinite t && fle Lit.zero t

/-- The envelope constants (R8), with `ENV_EPS > 0` (R121). -/
def Config.envelopeOk (c : Config) : Bool :=
  Config.timeOk c.attackS && Config.timeOk c.decayS && Config.timeOk c.releaseS &&
    inRange c.sustainLevel Lit.zero Lit.one && isFinite c.envEps && flt Lit.zero c.envEps

/-- `0 < PAD_ALPHA < 1` (R8). -/
def Config.padOk (c : Config) : Bool := flt Lit.zero c.padAlpha && flt c.padAlpha Lit.one

/-- The reset values lie in the legal range of the register they initialise (R8, R37). -/
def Config.resetsOk (c : Config) : Bool :=
  inRange c.rstMasterGain Lit.zero Lit.one && inRange c.rstEchoMix Lit.zero Lit.one &&
    inRange c.rstEchoFb Lit.zero Lit.c0p85 && inRange c.rstEchoMs Lit.c30 Lit.c800

/-- A build whose parameters meet the constraints of rule R8. -/
def Config.wf (c : Config) : Bool :=
  c.rateOk && c.sizesOk && c.envelopeOk && c.padOk && c.resetsOk

end Sys2Proof
end

