-- ==== Sys2Proof/Machine/State.lean ====
section
/-! DEFINITION. The state of one instance of the block as plain data (rules R25 to R50): the voice file, the pool
registers, the sine ROM, the echo RAM; the build it is an instance of; and, as the model's own fields, what the
host still presents at the input ports and what the output port has sent. The reasons a step can stop. -/

namespace Sys2Proof.Machine

/-- The envelope stage (R32); codes 5 to 7 are unrepresentable. -/
inductive Stage where
  | attack
  | decay
  | sustain
  | release
  | off
  deriving DecidableEq, Repr

/-- A voice slot `V[i]` (R26). -/
structure Voice where
  /-- R27 -/
  active : Bool
  /-- R28 -/
  note : BitVec 7
  /-- R29 -/
  age : BitVec 32
  /-- R30 -/
  phase : F32
  /-- R31 -/
  inc : F32
  /-- R32 -/
  stage : Stage
  /-- R33 -/
  level : F32
  /-- R34 -/
  velGain : F32
  /-- R35 -/
  transient : F32
  /-- R36 -/
  filt : F32
  deriving DecidableEq, Repr

/-- The echo RAM (R50, R60) as its listed cells: cell number and F32, numbers strictly rising, no listed cell equal
to +0.0, which is what an unlisted cell reads as (every cell is +0.0 at reset, R275). -/
abbrev EchoRam := List (Nat × F32)

/-- A render request as the sink presents it: `blk_avail`, and, if `rst` rises while the block is being rendered,
after how many of its frames (R95, R276). -/
structure RenderRequest where
  avail : Bool
  cutAfter : Option Nat
  deriving DecidableEq, Repr

/-- What the host holds at the input pins at one clock edge at which the block is idle (R97): `rst`, a `blk_req`
pulse, a command word with `cmd_valid`. -/
structure PortEdge where
  rst : Bool
  request : Option RenderRequest
  command : Option CommandWord
  deriving DecidableEq, Repr

/-- One word of the output port (R101): `out_data`, and `out_last`. -/
structure OutFrame where
  data : FrameWord
  last : Bool
  deriving DecidableEq, Repr

/-- The state of one instance of the block. -/
structure State where
  /-- `V[0] .. V[7]` (R26), `K_VOICES = 8` (R7). -/
  voices : Vector Voice 8
  /-- `P.preset` (R38). -/
  preset : BitVec 2
  /-- `P.masterGain` (R39). -/
  masterGain : F32
  /-- `P.echoOn` (R40). -/
  echoOn : Bool
  /-- `P.echoMix` (R41). -/
  echoMix : F32
  /-- `P.echoFb` (R42). -/
  echoFb : F32
  /-- `P.echoMs` (R43). -/
  echoMs : F32
  /-- `P.echoLen` (R44), kept in range by its rules and never wrapping (R9). -/
  echoLen : Nat
  /-- `P.echoIdx` (R45), kept in range by its rules and never wrapping (R9). -/
  echoIdx : Nat
  /-- `P.lcg` (R46). -/
  lcg : BitVec 32
  /-- `P.ageCtr` (R47). -/
  ageCtr : BitVec 32
  /-- `ROM[0 .. SINE_SIZE-1]` (R49): `SINE_SIZE` words, read-only. -/
  rom : List F32
  /-- `EB` (R50). -/
  echoRam : EchoRam
  /-- The model's own: the build parameters of this instance (R8), constant for its life. -/
  cfg : Config
  /-- The model's own: what the host will present at the input ports, next edge first. -/
  ports : List PortEdge
  /-- The model's own: the words the output port has sent, oldest first (R20). -/
  out : List OutFrame
  deriving DecidableEq, Repr

/-- The faults. The block itself raises none (R250). -/
inductive Fault where
  /-- Raised by RENDER (`echoStep`) when the echo is on and `P.echoIdx` names a cell at or above `ECHO_CAP`, which
  does not exist (R60). No reachable state does (R62). Safe: the model stops. -/
  | echoCellAbsent
  deriving DecidableEq, Repr

/-- The refusals. -/
inductive Refusal where
  /-- Raised by `exec` for an instruction that has no meaning yet. Safe: the model stops. -/
  | notModelled (mnemonic : String)
  /-- Raised by NOTE_ON at `P.ageCtr = 2^32 - 1`, where the spec leaves the behaviour unspecified and has the model
  refuse the command (R47, R253). Safe: the model stops. -/
  | ageCounterExhausted
  deriving DecidableEq, Repr

/-- A voice slot after reset (R275). -/
def Voice.reset : Voice where
  active := false
  note := 0#7
  age := 0#32
  phase := 0#32
  inc := 0#32
  stage := .off
  level := 0#32
  velGain := 0#32
  transient := 0#32
  filt := 0#32

/-- The state after `Reset` of an instance of build `c` with sine table `rom` (R275), nothing presented at its ports
and nothing sent. -/
def State.resetOf (c : Config) (rom : List F32) : State where
  voices := Vector.replicate 8 Voice.reset
  preset := c.rstPreset
  masterGain := c.rstMasterGain
  echoOn := c.rstEchoOn
  echoMix := c.rstEchoMix
  echoFb := c.rstEchoFb
  echoMs := c.rstEchoMs
  echoLen := echoLenOf c c.rstEchoMs
  echoIdx := 0
  lcg := c.lcgSeed
  ageCtr := 0#32
  rom := rom
  echoRam := []
  cfg := c
  ports := []
  out := []

/-- The machine right after reset (R275): the build `Config.build`, `SINE_BITS = 10` (R8) and the reference table. -/
def State.reset : State := State.resetOf Config.build (sinRomRef 10)

end Sys2Proof.Machine
end

