-- ==== Sys2Proof/Machine/Ops.lean ====
section
/-! DEFINITION. The named operations over the state: the voice file, the echo RAM, the output port, the `Reset` event,
and sequencing of steps that may stop. There is no exception entry and no return from one: the block raises none
(rules R250, R256, R257). -/

namespace Sys2Proof.Machine

/-- The slots `0 .. K_VOICES-1` in ascending order (R10). -/
def slots : List (Fin 8) := [0, 1, 2, 3, 4, 5, 6, 7]

/-- `V[i]` (R10). -/
def State.voice (s : State) (i : Fin 8) : Voice := s.voices[i]

/-- `V[i] <- v` (R10). -/
def State.setVoice (s : State) (i : Fin 8) (v : Voice) : State := { s with voices := s.voices.set i v }

/-- Apply one function to every slot of the voice file. -/
def State.mapVoices (s : State) (f : Voice → Voice) : State := { s with voices := s.voices.map f }

/-- `P.lcg <- x`. -/
def State.setLcg (s : State) (x : BitVec 32) : State := { s with lcg := x }

/-- `P.ageCtr <- x`. -/
def State.setAgeCtr (s : State) (x : BitVec 32) : State := { s with ageCtr := x }

/-- `P.echoIdx <- k`. -/
def State.setEchoIdx (s : State) (k : Nat) : State := { s with echoIdx := k }

/-- What the host still presents at the ports. -/
def State.setPorts (s : State) (p : List PortEdge) : State := { s with ports := p }

/-- Send a word on the output port (R101). -/
def State.emit (s : State) (w : OutFrame) : State := { s with out := s.out ++ [w] }

/-- `EB[k]` (R10): an unlisted cell holds +0.0, its reset value (R275). -/
def EchoRam.read : EchoRam → Nat → F32
  | [], _ => 0#32
  | (a, v) :: m, k => if k = a then v else EchoRam.read m k

/-- `EB[k] <- x` (R10), keeping the canonical form: +0.0 is not listed. -/
def EchoRam.write : EchoRam → Nat → F32 → EchoRam
  | [], k, x => if x = 0#32 then [] else [(k, x)]
  | (a, v) :: m, k, x =>
    if k < a then (if x = 0#32 then (a, v) :: m else (k, x) :: (a, v) :: m)
    else if k = a then (if x = 0#32 then m else (a, x) :: m)
    else (a, v) :: EchoRam.write m k x

/-- The canonical form from cell `lo` on: numbers strictly rising, no cell listed at +0.0. -/
def EchoRam.wfFrom : Nat → EchoRam → Bool
  | _, [] => true
  | lo, (a, v) :: m => decide (lo ≤ a) && (v != 0#32) && EchoRam.wfFrom (a + 1) m

/-- The canonical form of the echo RAM. -/
def EchoRam.wf (m : EchoRam) : Bool := EchoRam.wfFrom 0 m

/-- `EB[k] <- x` on the state. -/
def State.writeEcho (s : State) (k : Nat) (x : F32) : State := { s with echoRam := EchoRam.write s.echoRam k x }

/-- Run `f` on the next state, or stop as the first step stopped. -/
def andThen (o : Host.Outcome State Fault Refusal) (f : State → Host.Outcome State Fault Refusal) :
    Host.Outcome State Fault Refusal :=
  match o with
  | .next s => f s
  | .fault r => .fault r
  | .refused r => .refused r

/-- The `Reset` event (R275, R276): every state element takes its reset value; the ROM is not changed by reset, and
the frames already sent stay sent. -/
def State.afterReset (s : State) : State :=
  { State.resetOf s.cfg s.rom with ports := s.ports, out := s.out }

end Sys2Proof.Machine
end

