-- ==== Sys2Proof/Machine/Flags.lean ====
section
/-! DEFINITION. The one-bit and enumerated state (rule R52) and its transitions (rule R120). The block has no condition
codes: no operation sets a flag as a side effect of arithmetic. -/

namespace Sys2Proof.Machine

/-- The 3-bit code of a stage (R32). -/
def Stage.code : Stage → BitVec 3
  | .attack => 0#3
  | .decay => 1#3
  | .sustain => 2#3
  | .release => 3#3
  | .off => 4#3

/-- To Release, level unchanged (R120, R145). -/
def Voice.toRelease (v : Voice) : Voice := { v with stage := .release }

/-- To Off: level +0.0 and inactive, whatever it was before (R120, R126, R147). -/
def Voice.toOff (v : Voice) : Voice := { v with active := false, stage := .off, level := Lit.zero }

/-- To `stage` at exactly `level`: the end of a ramp, or a snap (R120, R123, R124). -/
def Voice.toStage (v : Voice) (stage : Stage) (level : F32) : Voice := { v with stage := stage, level := level }

/-- Along a ramp: the level moves, the stage stays (R120). -/
def Voice.toLevel (v : Voice) (level : F32) : Voice := { v with level := level }

/-- `V[i].active = 1` and `V[i].note = note` (R145). -/
def Voice.holds (v : Voice) (note : BitVec 7) : Bool := v.active && v.note == note

end Sys2Proof.Machine
end

