-- ==== Sys2Proof/Machine/Allocator.lean ====
section
/-! DEFINITION. The voice allocator and the note commands (rules R135 to R148). -/

namespace Sys2Proof.Machine

/-- `FindFree()` (R137): the lowest inactive slot, if there is one. -/
def findFree (s : State) : Option (Fin 8) := slots.find? (fun i => !(s.voice i).active)

/-- The least age in the voice file (R138). -/
def minAge (s : State) : Nat := slots.foldl (fun m i => min m (s.voice i).age.toNat) (s.voice 0).age.toNat

/-- `Steal()` (R138): the lowest slot of the least age. -/
def steal (s : State) : Fin 8 := (slots.find? (fun i => (s.voice i).age.toNat == minAge s)).getD 0

/-- `SelectSlot()` (R136). -/
def selectSlot (s : State) : Fin 8 := (findFree s).getD (steal s)

/-- The slot a NOTE_ON writes (R140): all ten fields. -/
def startedVoice (c : Config) (note vel : BitVec 7) (age : BitVec 32) : Voice where
  active := true
  note := note
  age := age
  phase := Lit.zero
  inc := incOf c note
  stage := .attack
  level := Lit.zero
  velGain := velGainOf vel
  transient := Lit.one
  filt := Lit.zero

/-- The state NOTE_ON leaves (R140); the slot is selected on the state before the command (R141 item 7). -/
def startNote (note vel : BitVec 7) (s : State) : State :=
  (s.setVoice (selectSlot s) (startedVoice s.cfg note vel s.ageCtr)).setAgeCtr (s.ageCtr + 1#32)

/-- NOTE_ON (R140). With the age counter exhausted the behaviour is unspecified and the command is refused (R47,
R253). -/
def execNoteOn (note vel : BitVec 7) (s : State) : Host.Outcome State Fault Refusal :=
  if s.ageCtr = 0xFFFFFFFF#32 then .refused .ageCounterExhausted else .next (startNote note vel s)

/-- A slot after NOTE_OFF `note` (R145). -/
def releasedVoice (note : BitVec 7) (v : Voice) : Voice := if v.holds note then v.toRelease else v

/-- NOTE_OFF (R145): every active voice that holds the note goes to Release. -/
def execNoteOff (note : BitVec 7) (s : State) : Host.Outcome State Fault Refusal :=
  .next (s.mapVoices (releasedVoice note))

/-- ALL_NOTES_OFF (R147). -/
def execAllNotesOff (s : State) : Host.Outcome State Fault Refusal := .next (s.mapVoices Voice.toOff)

end Sys2Proof.Machine
end

