-- ==== Sys2Proof/Machine/Params.lean ====
section
/-! DEFINITION. NOP, the six parameter setters and the reserved opcodes (rules R154 to R162). -/

namespace Sys2Proof.Machine

/-- NOP (R155). -/
def execNop (s : State) : Host.Outcome State Fault Refusal := .next s

/-- A reserved opcode (R86, R162): accepted, no state change. -/
def execReserved (_op : BitVec 8) (s : State) : Host.Outcome State Fault Refusal := .next s

/-- SET_PRESET (R156). -/
def execSetPreset (val : BitVec 8) (s : State) : Host.Outcome State Fault Refusal :=
  .next { s with preset := clampPreset val }

/-- SET_MASTER_GAIN (R157). -/
def execSetMasterGain (f : F32) (s : State) : Host.Outcome State Fault Refusal :=
  .next { s with masterGain := clampUnit f }

/-- SET_ECHO_ON (R158). -/
def execSetEchoOn (on : Bool) (s : State) : Host.Outcome State Fault Refusal := .next { s with echoOn := on }

/-- SET_ECHO_MIX (R159). -/
def execSetEchoMix (f : F32) (s : State) : Host.Outcome State Fault Refusal :=
  .next { s with echoMix := clampUnit f }

/-- SET_ECHO_FB (R160). -/
def execSetEchoFb (f : F32) (s : State) : Host.Outcome State Fault Refusal :=
  .next { s with echoFb := clampFb f }

/-- The three registers of the echo time (R161): the index is reset to 0 exactly when the new length leaves it out of
range. -/
def setEchoTime (ms : F32) (s : State) : State :=
  { s with
    echoMs := ms
    echoLen := echoLenOf s.cfg ms
    echoIdx := if echoLenOf s.cfg ms ≤ s.echoIdx then 0 else s.echoIdx }

/-- SET_ECHO_MS (R161). -/
def execSetEchoMs (f : F32) (s : State) : Host.Outcome State Fault Refusal := .next (setEchoTime (clampMs f) s)

end Sys2Proof.Machine
end

