-- ==== Sys2Proof/Machine/Echo.lean ====
section
/-! DEFINITION. The mono feedback delay line (rules R195 to R199). -/

namespace Sys2Proof.Machine

/-- `y = x + feedback·delayed` (R195). -/
def echoY (s : State) (x : F32) : F32 := fadd x (fmul s.echoFb (EchoRam.read s.echoRam s.echoIdx))

/-- The wet signal that `ECHO_WET_TAP` selects (R195, R198). -/
def echoWet (s : State) (x : F32) : F32 :=
  match s.cfg.wetTap with
  | .y => echoY s x
  | .d => EchoRam.read s.echoRam s.echoIdx

/-- `(1-mix)·x + mix·w` (R195). -/
def echoMixed (s : State) (x w : F32) : F32 := fadd (fmul (fsub Lit.one s.echoMix) x) (fmul s.echoMix w)

/-- The index after this one, wrapping at `P.echoLen` (R195). -/
def echoNextIdx (s : State) : Nat := if s.echoLen ≤ s.echoIdx + 1 then 0 else s.echoIdx + 1

/-- The cell addressed exists, or none is (R60, R62). -/
def echoReachable (s : State) : Bool := !s.echoOn || decide (s.echoIdx < s.cfg.echoCap)

/-- The signal `EchoStep(x)` returns (R195); disabled, `x` itself, bit for bit (R196). -/
def echoOut (s : State) (x : F32) : F32 := if s.echoOn then echoMixed s x (echoWet s x) else x

/-- The state `EchoStep(x)` leaves (R195); disabled, the same state (R196). -/
def echoNext (s : State) (x : F32) : State :=
  if s.echoOn then (s.writeEcho s.echoIdx (echoY s x)).setEchoIdx (echoNextIdx s) else s

end Sys2Proof.Machine
end

