-- ==== Sys2Proof/Machine/Envelope.lean ====
section
/-! DEFINITION. The ADSR envelope generator (rules R120 to R128). -/

namespace Sys2Proof.Machine

/-- The degenerate-stage test `time <= ENV_EPS` (R121, R128). -/
def snaps (c : Config) (time : F32) : Bool := fle time c.envEps

/-- `ATT_STEP` (R121). -/
def attStep (c : Config) : F32 := fdiv Lit.one (fmul c.attackS (rateF32 c))

/-- `DEC_STEP` (R121). -/
def decStep (c : Config) : F32 := fdiv (fsub Lit.one c.sustainLevel) (fmul c.decayS (rateF32 c))

/-- `REL_STEP` (R121). -/
def relStep (c : Config) : F32 := fdiv Lit.one (fmul c.releaseS (rateF32 c))

/-- `EnvAttack` (R123). -/
def envAttack (c : Config) (v : Voice) : Voice :=
  if snaps c c.attackS then v.toStage .decay Lit.one
  else if fge (fadd v.level (attStep c)) Lit.one then v.toStage .decay Lit.one
  else v.toLevel (fadd v.level (attStep c))

/-- `EnvDecay` (R124). -/
def envDecay (c : Config) (v : Voice) : Voice :=
  if snaps c c.decayS then v.toStage .sustain c.sustainLevel
  else if fle (fsub v.level (decStep c)) c.sustainLevel then v.toStage .sustain c.sustainLevel
  else v.toLevel (fsub v.level (decStep c))

/-- `EnvSustain` (R125). -/
def envSustain (v : Voice) : Voice := v

/-- `EnvRelease` (R126). -/
def envRelease (c : Config) (v : Voice) : Voice :=
  if snaps c c.releaseS then v.toOff
  else if fle (fsub v.level (relStep c)) Lit.zero then v.toOff
  else v.toLevel (fsub v.level (relStep c))

/-- `EnvStep` (R122): at most one transition; nothing in Off (R127). -/
def envStep (c : Config) (v : Voice) : Voice :=
  match v.stage with
  | .attack => envAttack c v
  | .decay => envDecay c v
  | .sustain => envSustain v
  | .release => envRelease c v
  | .off => v

end Sys2Proof.Machine
end

