-- ==== Sys2Proof/Machine/Wavetable.lean ====
section
/-! DEFINITION. The wavetable sine look-up (rules R110 to R117). -/

namespace Sys2Proof.Machine

/-- The value of `Lookup` where the spec leaves it open: any value in `[-1, 1]` (R110, R111 item 6; log entry 4). -/
def lookupUnspecified (p : F32) : F32 := clampf (Config.lookupOpen p) Lit.minusOne Lit.one

/-- The ROM index of a phase: `floorint(p · SINE_SIZE) mod SINE_SIZE`, non-negative remainder (R61, R110); nothing where
the product is not finite. -/
def romIndex (rom : List F32) (p : F32) : Option Nat :=
  (floorInt (fmul p (i2f rom.length))).map (fun k => (k % (rom.length : Int)).toNat)

/-- `Lookup(p)` (R110). -/
def lookup (rom : List F32) (p : F32) : F32 :=
  ((romIndex rom p).bind (fun k => rom[k]?)).getD (lookupUnspecified p)

end Sys2Proof.Machine
end

