-- ==== Sys2Proof/Machine/Presets.lean ====
section
/-! DEFINITION. The sample-synthesis engine: the four presets, the noise generator, scaling, phase advance and the
order of one voice in one frame (rules R175 to R187). -/

namespace Sys2Proof.Machine

/-- `L(HPh(m, p))` (R176): the table at the harmonic phase `frac(m · p)`. -/
def harmonic (rom : List F32) (m p : F32) : F32 := lookup rom (frac (fmul m p))

/-- `Sine(p)` (R178). -/
def sine (rom : List F32) (p : F32) : F32 := lookup rom p

/-- `Additive(p)` (R179), summed left to right. -/
def additive (rom : List F32) (p : F32) : F32 :=
  fadd (fadd (fadd (lookup rom p) (fmul Lit.c0p5 (harmonic rom Lit.two p)))
    (fmul Lit.c0p3 (harmonic rom Lit.three p))) (fmul Lit.c0p2 (harmonic rom Lit.c1p5 p))

/-- The harmonic stack of `Electric` (R180). -/
def electricStack (rom : List F32) (p : F32) : F32 :=
  fadd (fadd (lookup rom p) (fmul Lit.c0p35 (harmonic rom Lit.two p))) (fmul Lit.c0p15 (harmonic rom Lit.four p))

/-- The next state of the noise generator (R182). -/
def lcgNext (x : BitVec 32) : BitVec 32 := x * 1664525#32 + 1013904223#32

/-- The sample in `[0, 1)` that a generator state gives: its top 24 bits over 2^24 (R182). -/
def lcgUniform (x : BitVec 32) : F32 := fdiv (i2f (x >>> 8).toNat) Lit.c2p24

/-- The noise term of `NoiseBurst` (R181), from the generator state and the transient just written. -/
def noise (lcg : BitVec 32) (transient : F32) : F32 :=
  fmul (fmul (fsub (fmul (lcgUniform lcg) Lit.two) Lit.one) Lit.c0p15) transient

/-- The input of the preset-3 filter (R183). -/
def padInput (rom : List F32) (p : F32) : F32 :=
  fadd (fmul Lit.c0p6 (harmonic rom Lit.c1p004 p)) (fmul Lit.c0p6 (harmonic rom Lit.c0p996 p))

/-- The one-pole low-pass `z + a·(x - z)` (R183). -/
def padFilter (alpha z x : F32) : F32 := fadd z (fmul alpha (fsub x z))

/-- What a raw sample leaves behind: the voice, the generator, and the sample. -/
structure RawSample where
  voice : Voice
  lcg : BitVec 32
  value : F32
  deriving DecidableEq, Repr

/-- `Electric` with its `NoiseBurst` (R180, R181): the transient decays and the generator steps before they are used. -/
def electric (rom : List F32) (v : Voice) (lcg : BitVec 32) : RawSample where
  voice := { v with transient := fmul v.transient Lit.c0p9992 }
  lcg := lcgNext lcg
  value := fadd (electricStack rom v.phase) (noise (lcgNext lcg) (fmul v.transient Lit.c0p9992))

/-- `Pad` (R183): the output is the updated filter memory. -/
def pad (alpha : F32) (rom : List F32) (v : Voice) (lcg : BitVec 32) : RawSample where
  voice := { v with filt := padFilter alpha v.filt (padInput rom v.phase) }
  lcg := lcg
  value := padFilter alpha v.filt (padInput rom v.phase)

/-- `RawSample`, the preset multiplexer (R177): only the selected formula is evaluated (R186). -/
def rawSample (c : Config) (rom : List F32) (preset : BitVec 2) (v : Voice) (lcg : BitVec 32) : RawSample :=
  match preset.toNat with
  | 0 => { voice := v, lcg := lcg, value := sine rom v.phase }
  | 1 => { voice := v, lcg := lcg, value := additive rom v.phase }
  | 2 => electric rom v lcg
  | _ => pad c.padAlpha rom v lcg

/-- `Scaled` (R184). -/
def scaled (v : Voice) (raw : F32) : F32 := fmul raw (fmul v.level v.velGain)

/-- `PhaseAdvance` (R185). -/
def phaseAdvance (v : Voice) : Voice := { v with phase := frac (fadd v.phase v.inc) }

/-- What a voice does in one frame: the voice, the generator, and its contribution to the mix, if any. -/
structure VoiceFrame where
  voice : Voice
  lcg : BitVec 32
  sample : Option F32
  deriving DecidableEq, Repr

/-- A voice still active after its envelope step (R187): raw sample, scaling, phase advance. -/
def soundVoice (c : Config) (rom : List F32) (preset : BitVec 2) (v : Voice) (lcg : BitVec 32) : VoiceFrame :=
  let r := rawSample c rom preset v lcg
  { voice := phaseAdvance r.voice, lcg := r.lcg, sample := some (scaled r.voice r.value) }

/-- `VoiceFrame` (R187): nothing for an inactive voice; the envelope step; nothing more if it ended the release. -/
def voiceFrame (c : Config) (rom : List F32) (preset : BitVec 2) (v : Voice) (lcg : BitVec 32) : VoiceFrame :=
  if !v.active then { voice := v, lcg := lcg, sample := none }
  else if !(envStep c v).active then { voice := envStep c v, lcg := lcg, sample := none }
  else soundVoice c rom preset (envStep c v) lcg

end Sys2Proof.Machine
end

