-- ==== Sys2Proof/Machine/Mixer.lean ====
section
/-! DEFINITION. One output frame: voice sum, normalisation and master gain, echo, limiter, quantiser, output word
(rules R205 to R210). -/

namespace Sys2Proof.Machine

/-- The running voice sum and the state the voices before this one left. -/
structure Sum where
  sum : F32
  state : State
  deriving DecidableEq, Repr

/-- `VoiceFrame(i)` on the state (R187): voice `i` and `P.lcg` are written, and the contribution, if any, is added
(R206). -/
def addVoice (p : Sum) (i : Fin 8) : Sum :=
  let r := voiceFrame p.state.cfg p.state.rom p.state.preset (p.state.voice i) p.state.lcg
  { sum := (r.sample.map (fadd p.sum)).getD p.sum
    state := (p.state.setVoice i r.voice).setLcg r.lcg }

/-- `VoiceSum()` (R206): from +0.0, in ascending slot order. -/
def voiceSum (s : State) : Sum := slots.foldl addVoice { sum := Lit.zero, state := s }

/-- Normalisation, then master gain (R207). -/
def mixed (s : State) (sum : F32) : F32 := fmul (fmul sum normFactor) s.masterGain

/-- `Limit` (R208). -/
def limit (e : F32) : F32 := clampf (tanhRef e) Lit.minusOne Lit.one

/-- `Quantise` (R209). -/
def quantise (c : F32) : Int := ftrunc (fmul c Lit.c32767)

/-- `OutWord` (R210): the same 16-bit pattern on both channels. -/
def outWord (q : Int) : FrameWord := BitVec.ofInt 16 q ++ BitVec.ofInt 16 q

/-- The frame word that a mixed sample `x` gives in state `s` (R205): echo, limiter, quantiser. -/
def frameWord (s : State) (x : F32) : FrameWord := outWord (quantise (limit (echoOut s x)))

/-- The end of a frame (R205): the echo steps and the word is sent. -/
def finishFrame (last : Bool) (p : Sum) : State :=
  (echoNext p.state (mixed p.state p.sum)).emit
    { data := frameWord p.state (mixed p.state p.sum), last := last }

/-- `Frame()` (R205). `last` marks frame `BLOCK_SIZE-1` (R101). An echo cell that does not exist stops the model. -/
def frame (last : Bool) (s : State) : Host.Outcome State Fault Refusal :=
  if echoReachable (voiceSum s).state then .next (finishFrame last (voiceSum s)) else .fault .echoCellAbsent

end Sys2Proof.Machine
end

