-- ==== Sys2Proof/Machine/Render.lean ====
section
/-! DEFINITION. The render request: RENDER and RENDER_SKIP (rules R211, R212), and a render cut short by `rst`
(rule R276). -/

namespace Sys2Proof.Machine

/-- `n` frames, of which the first has `left` frames of its block still to send, itself included (R211). -/
def runFrames : (n left : Nat) → State → Host.Outcome State Fault Refusal
  | 0, _, s => .next s
  | n + 1, left, s => andThen (frame (left == 1) s) (runFrames n (left - 1))

/-- RENDER (R211): `BLOCK_SIZE` frames. -/
def execRender (s : State) : Host.Outcome State Fault Refusal :=
  runFrames s.cfg.blockSize s.cfg.blockSize s

/-- RENDER_SKIP (R212): no state change, no output. -/
def execRenderSkip (s : State) : Host.Outcome State Fault Refusal := .next s

/-- A render cut short (R276): the frames sent before `rst` rose stay sent, no further one appears, and the state is
the reset state. -/
def cutRender (frames : Nat) (s : State) : Host.Outcome State Fault Refusal :=
  andThen (runFrames (min frames s.cfg.blockSize) s.cfg.blockSize s) (fun t => .next t.afterReset)

end Sys2Proof.Machine
end

