-- ==== Sys2Proof/Machine/Dispatch.lean ====
section
/-! DEFINITION. The meaning of every instruction, one direct call each. -/

namespace Sys2Proof.Machine

def exec (i : Instr) (s : State) : Host.Outcome State Fault Refusal :=
  match i with
  | .nop => Sys2Proof.Machine.execNop s
  | .noteOn note vel => Sys2Proof.Machine.execNoteOn note vel s
  | .noteOff note => Sys2Proof.Machine.execNoteOff note s
  | .allNotesOff => Sys2Proof.Machine.execAllNotesOff s
  | .setPreset val => Sys2Proof.Machine.execSetPreset val s
  | .setMasterGain f => Sys2Proof.Machine.execSetMasterGain f s
  | .setEchoOn on => Sys2Proof.Machine.execSetEchoOn on s
  | .setEchoMix f => Sys2Proof.Machine.execSetEchoMix f s
  | .setEchoFb f => Sys2Proof.Machine.execSetEchoFb f s
  | .setEchoMs f => Sys2Proof.Machine.execSetEchoMs f s
  | .render => Sys2Proof.Machine.execRender s
  | .renderSkip => Sys2Proof.Machine.execRenderSkip s

end Sys2Proof.Machine
end

