-- ==== Sys2Proof/Decode.lean ====
section
/-! DEFINITION. The decoder of rule R89, total on every word a port can carry, the encoder back to the canonical
word (ignored bits zero), and the numbering of spec/opcode_table.json. -/

namespace Sys2Proof

open Sys2Proof.Machine

/-- What a port word stands for: an instruction, or a reserved opcode, which rule R86 wants decoded by name. -/
inductive Decoded where
  | instr (i : Instr)
  /-- `Reserved(op)`, rules R86 and R162: accepted, and its step is the identity. -/
  | reserved (op : BitVec 8)
  deriving DecidableEq, Repr

/-- `Decode(w)` on the command port (R89). Bits a format ignores are not examined (R83, R86). -/
def decodeCommand (w : CommandWord) : Decoded :=
  match (opField w).toNat with
  | 0x00 => .instr .nop
  | 0x01 => .instr (.noteOn (noteField (argField w)) (velField (argField w)))
  | 0x02 => .instr (.noteOff (noteField (argField w)))
  | 0x03 => .instr .allNotesOff
  | 0x10 => .instr (.setPreset (valField (argField w)))
  | 0x11 => .instr (.setMasterGain (argField w))
  | 0x12 => .instr (.setEchoOn (onField (argField w)))
  | 0x13 => .instr (.setEchoMix (argField w))
  | 0x14 => .instr (.setEchoFb (argField w))
  | 0x15 => .instr (.setEchoMs (argField w))
  | _ => .reserved (opField w)

/-- The decoder of both ports: a command word by R89, a render request by its one bit (R95). -/
def decode : PortWord → Decoded
  | .cmd w => decodeCommand w
  | .request true => .instr .render
  | .request false => .instr .renderSkip

/-- The canonical word of an instruction: opcode by R84, fields by R83, every ignored bit zero (R89). -/
def encode : Instr → PortWord
  | .nop => .cmd (commandWord 0x00#8 0#32)
  | .noteOn note vel => .cmd (commandWord 0x01#8 (argNoteVel note vel))
  | .noteOff note => .cmd (commandWord 0x02#8 (note.setWidth 32))
  | .allNotesOff => .cmd (commandWord 0x03#8 0#32)
  | .setPreset val => .cmd (commandWord 0x10#8 (val.setWidth 32))
  | .setMasterGain f => .cmd (commandWord 0x11#8 f)
  | .setEchoOn on => .cmd (commandWord 0x12#8 (if on then 1#32 else 0#32))
  | .setEchoMix f => .cmd (commandWord 0x13#8 f)
  | .setEchoFb f => .cmd (commandWord 0x14#8 f)
  | .setEchoMs f => .cmd (commandWord 0x15#8 f)
  | .render => .request true
  | .renderSkip => .request false

/-- The port word of an instruction given as `nbits` bits `w` in the numbering of spec/opcode_table.json: the one-bit
rows are requests on the render port, the 40-bit rows words on the command port. No byte order enters: a command
word is one parallel word (R63). -/
def portWordOf (nbits w : Nat) : PortWord :=
  if nbits ≤ 8 then .request (w.testBit 0) else .cmd (BitVec.ofNat 40 w)

/-- The instruction the decoder reads from the `nbits` bits `w`; none for a reserved opcode, which is no row of the
table. -/
def decodeTableWord (nbits w : Nat) : Option Instr :=
  match decode (portWordOf nbits w) with
  | .instr i => some i
  | .reserved _ => none

end Sys2Proof
end

