-- ==== Sys2Proof/Machine/Ports.lean ====
section
/-! DEFINITION. The input ports: which event the block accepts from what the host presents (rules R97 to R100, R255). -/

namespace Sys2Proof.Machine

/-- An accepted event (R6), and a clock edge at which nothing is accepted. -/
inductive Event where
  /-- Nothing presented. -/
  | idle
  /-- `Reset` (R275). -/
  | reset
  /-- A command word or a render request (R82, R95). -/
  | word (w : PortWord)
  /-- A served render request during which `rst` rises after this many frames (R276). -/
  | cutRender (frames : Nat)
  deriving DecidableEq, Repr

/-- `cmd_ready` at an edge at which the block is idle: low under `rst` and in any cycle with `blk_req` (R98, R99). -/
def PortEdge.cmdReady (e : PortEdge) : Bool := !e.rst && e.request.isNone

/-- The edge that presents one word and nothing else. -/
def PortEdge.ofWord : PortWord → PortEdge
  | .cmd w => { rst := false, request := none, command := some w }
  | .request a => { rst := false, request := some { avail := a, cutAfter := none }, command := none }

/-- The edge that raises `rst` and presents nothing. -/
def PortEdge.ofReset : PortEdge := { rst := true, request := none, command := none }

/-- The state in which a word is presented before everything else the host presents. -/
def State.present (s : State) (w : PortWord) : State := s.setPorts (PortEdge.ofWord w :: s.ports)

/-- A command not accepted stays presented until it is (R99). -/
def heldCommand (command : Option CommandWord) (rest : List PortEdge) : List PortEdge :=
  match command with
  | some w => PortEdge.ofWord (.cmd w) :: rest
  | none => rest

/-- The event a render request is (R95, R276); a skipped one has no frames to cut, so `rst` then simply resets. -/
def requestEvent (r : RenderRequest) : Event :=
  match r.cutAfter with
  | none => .word (.request r.avail)
  | some k => if r.avail then .cutRender k else .reset

/-- The event accepted from the presented edges, and what stays presented: `rst` first (a `blk_req` under `rst` is lost,
R277), then the render request, then the command (R255). -/
def accept : List PortEdge → Event × List PortEdge
  | [] => (.idle, [])
  | e :: rest =>
    if e.rst then (.reset, heldCommand e.command rest)
    else
      match e.request, e.command with
      | some r, c => (requestEvent r, heldCommand c rest)
      | none, some w => (.word (.cmd w), rest)
      | none, none => (.idle, rest)

end Sys2Proof.Machine
end

