-- ==== Sys2Proof/Machine/Events.lean ====
section
/-! DEFINITION. An accepted event applied to the state (rules R6, R69, R81). -/

namespace Sys2Proof.Machine

/-- A port word accepted: decode and run it; a reserved opcode changes nothing (R81, R86, R89). -/
def runWord (w : PortWord) (s : State) : Host.Outcome State Fault Refusal :=
  match decode w with
  | .instr i => exec i s
  | .reserved op => execReserved op s

/-- An accepted event applied to the state, as one indivisible step (R6, R69). -/
def applyEvent (e : Event) (s : State) : Host.Outcome State Fault Refusal :=
  match e with
  | .idle => .next s
  | .reset => .next s.afterReset
  | .word w => runWord w s
  | .cutRender frames => cutRender frames s

end Sys2Proof.Machine
end

