-- ==== Sys2Proof/Machine/Step.lean ====
section
/-! DEFINITION. One step: the next event the ports accept (rules R6, R70). -/

namespace Sys2Proof.Machine

/-- One step: accept the next event and apply it. With nothing presented the block keeps its state (R6). -/
def step (s : State) : Host.Outcome State Fault Refusal :=
  applyEvent (accept s.ports).1 (s.setPorts (accept s.ports).2)

/-- The instruction of `nbits` bits `w` presented at its port before everything else the host presents: the block
fetches nothing (R51), so this is where its next instruction comes from (log entry 1). -/
def State.withFetchWord (s : State) (nbits w : Nat) : State :=
  s.present (portWordOf nbits w)

end Sys2Proof.Machine
end

