-- ==== Sys2Proof/Machine/Pseudo.lean ====
section
/-! DEFINITION. The script statements of rule R90 and the pseudo-instructions of rule R91: what each presents at the
ports. -/

namespace Sys2Proof.Machine

/-- The pseudo-instructions (R91): a 7-bit control value, mapped outside the block to one command. -/
inductive Pseudo where
  | ccVolume (v : BitVec 7)
  | ccEchoOn (v : BitVec 7)
  | ccEchoMix (v : BitVec 7)
  | ccEchoFb (v : BitVec 7)
  | ccEchoMs (v : BitVec 7)
  | programChange (p : BitVec 7)
  deriving DecidableEq, Repr

/-- `g = fdiv(i2f(v), 127.0)` (R91). -/
def controlGain (v : BitVec 7) : F32 := fdiv (i2f v.toNat) Lit.c127

/-- The one command a pseudo-instruction expands to (R91). The threshold of `CC_ECHO_ON` is the spec's (D35). -/
def Pseudo.expand : Pseudo → Instr
  | .ccVolume v => .setMasterGain (controlGain v)
  | .ccEchoOn v => .setEchoOn (decide (64 ≤ v.toNat))
  | .ccEchoMix v => .setEchoMix (controlGain v)
  | .ccEchoFb v => .setEchoFb (fmul (controlGain v) Lit.c0p85)
  | .ccEchoMs v => .setEchoMs (fadd Lit.c30 (fmul (controlGain v) Lit.c770))
  | .programChange p => .setPreset (p.setWidth 8)

/-- A script statement (R90). -/
inductive Statement where
  | core (i : Instr)
  | pseudo (p : Pseudo)
  /-- A 40-bit word given as it is, reserved opcodes among them. -/
  | word (w : CommandWord)
  | reset
  deriving DecidableEq, Repr

/-- The port edge a statement presents (R90): statements of a script are presented one after the other. -/
def Statement.edge : Statement → PortEdge
  | .core i => PortEdge.ofWord (encode i)
  | .pseudo p => PortEdge.ofWord (encode p.expand)
  | .word w => PortEdge.ofWord (.cmd w)
  | .reset => PortEdge.ofReset

/-- A script as what the host presents at the ports. -/
def scriptEdges (script : List Statement) : List PortEdge := script.map Statement.edge

end Sys2Proof.Machine
end

