-- ==== Sys2Proof/Safety.lean ====
section
/-! DEFINITION. What counts as a safe state: the invariants of rule R55, one by one, the bounds of rules R19, R188
and R200 that keep every F32 finite, and the conditions under which a step cannot stop. -/

namespace Sys2Proof.Machine

/-- R55 item 1, and the second half of item 2: active exactly when the stage is not Off, and Off at level +0.0. -/
abbrev VoicesInv (s : State) : Prop :=
  ∀ i : Fin 8, ((s.voice i).active = true ↔ (s.voice i).stage ≠ .off) ∧
    ((s.voice i).stage = .off → (s.voice i).level = 0#32)

/-- The level of one voice: in `[0, 1]` (R55 item 2), in Decay not below the sustain level, in Sustain exactly at it
(R124, R125). -/
abbrev LevelOk (c : Config) (v : Voice) : Prop :=
  inRange v.level Lit.zero Lit.one = true ∧ (v.stage = .decay → fle c.sustainLevel v.level = true) ∧
    (v.stage = .sustain → v.level = c.sustainLevel)

/-- R55 item 2 for an instance of a legal build. -/
abbrev LevelsInv (s : State) : Prop := s.cfg.wf = true ∧ ∀ i : Fin 8, LevelOk s.cfg (s.voice i)

/-- A phase in `[0, 1)` (R55 item 3). -/
def inUnitInterval (p : F32) : Bool := fle Lit.zero p && flt p Lit.one

/-- A phase increment: finite and not negative (R26, R31). -/
def incOk (x : F32) : Bool := isFinite x && fle Lit.zero x

/-- R55 item 3 for an instance of a legal build. -/
abbrev PhasesInv (s : State) : Prop :=
  s.cfg.wf = true ∧ ∀ i : Fin 8, inUnitInterval (s.voice i).phase = true ∧ incOk (s.voice i).inc = true

/-- R55 item 4: the ages of active voices are pairwise distinct and below the counter. -/
abbrev AgesInv (s : State) : Prop :=
  (∀ i : Fin 8, (s.voice i).active = true → (s.voice i).age.toNat < s.ageCtr.toNat) ∧
    ∀ i j : Fin 8, i ≠ j → (s.voice i).active = true → (s.voice j).active = true → (s.voice i).age ≠ (s.voice j).age

/-- R55 item 5, for an echo RAM of at least two cells (R8). -/
abbrev EchoIndexInv (s : State) : Prop :=
  2 ≤ s.cfg.echoCap ∧ 1 ≤ s.echoLen ∧ s.echoLen ≤ s.cfg.echoCap - 1 ∧ s.echoIdx < s.echoLen

/-- R55 item 6. `P.preset ≤ 3` holds by the width of the register. -/
abbrev ParamsInv (s : State) : Prop :=
  s.cfg.wf = true ∧ inRange s.masterGain Lit.zero Lit.one = true ∧ inRange s.echoMix Lit.zero Lit.one = true ∧
    inRange s.echoFb Lit.zero Lit.c0p85 = true ∧ inRange s.echoMs Lit.c30 Lit.c800 = true ∧
    s.echoLen = echoLenOf s.cfg s.echoMs

/-- The list that represents the echo RAM is canonical and lists only cells below `ECHO_CAP - 1`. The representation is
the model's own (log entry 10); that the last cell is never used is R50's. -/
abbrev MemoryInv (s : State) : Prop :=
  EchoRam.wf s.echoRam = true ∧ ∀ c ∈ s.echoRam, c.1 < s.cfg.echoCap - 1

/-- `|x| ≤ b` by the comparisons of rule R14. -/
def magLe (x b : F32) : Bool := inRange x (fneg b) b

/-- 64.0, above the bound of the echo cells (R200: about 38). -/
def Lit.c64 : F32 := 0x42800000#32

/-- The sine table conforms (R17, R49): a power of two of entries, `2 ≤ SINE_BITS ≤ 23`, each in `[-1, 1]`. -/
abbrev RomInv (s : State) : Prop :=
  s.rom.length = 2 ^ Nat.log2 s.rom.length ∧ 2 ≤ Nat.log2 s.rom.length ∧ Nat.log2 s.rom.length ≤ 23 ∧
    s.rom.all (fun x => magLe x Lit.one) = true ∧ s.rom[0]? = some 0#32

/-- The ranges of the fields of one voice that keep a frame finite (R26, R188), the filter with slack. -/
abbrev VoiceBounds (v : Voice) : Prop :=
  inRange v.velGain Lit.zero Lit.one = true ∧ inRange v.transient Lit.zero Lit.one = true ∧ magLe v.filt Lit.two = true

/-- Bounds that every step keeps and that make every F32 state element finite (R19, R55 item 7, R200). -/
abbrev BoundsInv (s : State) : Prop :=
  LevelsInv s ∧ PhasesInv s ∧ ParamsInv s ∧ RomInv s ∧ (∀ i : Fin 8, VoiceBounds (s.voice i)) ∧
    ∀ c ∈ s.echoRam, magLe c.2 Lit.c64 = true

/-- Every F32 field of a voice is finite. -/
abbrev VoiceFinite (v : Voice) : Prop :=
  isFinite v.phase = true ∧ isFinite v.inc = true ∧ isFinite v.level = true ∧ isFinite v.velGain = true ∧
    isFinite v.transient = true ∧ isFinite v.filt = true

/-- R55 item 7: every F32 state element is finite. -/
abbrev FiniteState (s : State) : Prop :=
  (∀ i : Fin 8, VoiceFinite (s.voice i)) ∧ isFinite s.masterGain = true ∧ isFinite s.echoMix = true ∧
    isFinite s.echoFb = true ∧ isFinite s.echoMs = true ∧ (∀ x ∈ s.rom, isFinite x = true) ∧
    ∀ k : Nat, isFinite (EchoRam.read s.echoRam k) = true

/-- The conjunction of the invariants of R55. -/
abbrev StateInv (s : State) : Prop :=
  VoicesInv s ∧ AgesInv s ∧ EchoIndexInv s ∧ MemoryInv s ∧ BoundsInv s

/-- A state whose next step cannot stop: the echo index is in range and the age counter is not exhausted (R253). -/
abbrev CanStep (s : State) : Prop := EchoIndexInv s ∧ s.ageCtr ≠ 0xFFFFFFFF#32

/-- `a == b` (R14): both zeros are equal, a NaN equals nothing. -/
def feq (a b : F32) : Bool := fle a b && fle b a

/-- The command words' bits that the block examines for this instruction: the opcode and the fields of its format
(R83). -/
def examinedBits : Instr → CommandWord
  | .nop => 0xFF00000000#40
  | .noteOn _ _ => 0xFF00007F7F#40
  | .noteOff _ => 0xFF0000007F#40
  | .allNotesOff => 0xFF00000000#40
  | .setPreset _ => 0xFF000000FF#40
  | .setMasterGain _ => 0xFFFFFFFFFF#40
  | .setEchoOn _ => 0xFF00000001#40
  | .setEchoMix _ => 0xFFFFFFFFFF#40
  | .setEchoFb _ => 0xFFFFFFFFFF#40
  | .setEchoMs _ => 0xFFFFFFFFFF#40
  | .render => 0#40
  | .renderSkip => 0#40

/-- NOTE_ONs one after the other, with nothing in between (R144). -/
def playNotes : List (BitVec 7 × BitVec 7) → State → Host.Outcome State Fault Refusal
  | [], s => .next s
  | (note, vel) :: rest, s => andThen (exec (.noteOn note vel) s) (playNotes rest)

/-- The same instance built with another `BLOCK_SIZE` (R8). -/
def State.withBlockSize (s : State) (n : Nat) : State := { s with cfg := { s.cfg with blockSize := n } }

/-- The state with the block boundaries forgotten: the block size, and which frames were the last of their block. -/
def State.forgetBlocks (s : State) : State :=
  { s with
    cfg := { s.cfg with blockSize := 0 }
    out := s.out.map (fun f => { f with last := false }) }

end Sys2Proof.Machine
end

