-- ==== Sys2Proof/Certificates/Slice0/Obligations.lean ====
section
/-! DEFINITION. The statements for the provers. Each docstring names the rules of spec/ it formalises. -/

open Sys2Proof Sys2Proof.Machine

/-! Encoding. -/

/-- R89, R83, R95: encode-then-decode is the identity on every instruction, every operand at every value. -/
def Obligations.DecodeOfEncodeIsTheInstruction : Prop :=
  ∀ i : Instr, i.wf = true → decode (encode i) = .instr i

/-- R89: the decoder on every 40-bit word, and decode-then-encode clears exactly the ignored bits. -/
def Obligations.DecoderFollowsTheOpcodeMap : Prop :=
  (∀ arg : BitVec 32,
    decode (.cmd (0x00#8 ++ arg)) = .instr .nop ∧
    decode (.cmd (0x01#8 ++ arg)) = .instr (.noteOn (arg.extractLsb' 0 7) (arg.extractLsb' 8 7)) ∧
    decode (.cmd (0x02#8 ++ arg)) = .instr (.noteOff (arg.extractLsb' 0 7)) ∧
    decode (.cmd (0x03#8 ++ arg)) = .instr .allNotesOff ∧
    decode (.cmd (0x10#8 ++ arg)) = .instr (.setPreset (arg.extractLsb' 0 8)) ∧
    decode (.cmd (0x11#8 ++ arg)) = .instr (.setMasterGain arg) ∧
    decode (.cmd (0x12#8 ++ arg)) = .instr (.setEchoOn (arg.getLsbD 0)) ∧
    decode (.cmd (0x13#8 ++ arg)) = .instr (.setEchoMix arg) ∧
    decode (.cmd (0x14#8 ++ arg)) = .instr (.setEchoFb arg) ∧
    decode (.cmd (0x15#8 ++ arg)) = .instr (.setEchoMs arg)) ∧
  (∀ (op : BitVec 8) (arg : BitVec 32),
    op ∉ [0x00#8, 0x01#8, 0x02#8, 0x03#8, 0x10#8, 0x11#8, 0x12#8, 0x13#8, 0x14#8, 0x15#8] →
      decode (.cmd (op ++ arg)) = .reserved op) ∧
  (∀ (i : Instr) (w : CommandWord), encode i = .cmd w → decode (.cmd w) = .instr i) ∧
  (∀ (w : CommandWord) (i : Instr), decode (.cmd w) = .instr i → encode i = .cmd (w &&& examinedBits i))

/-- R92, R95: the fifteen worked encodings, and the two render requests. -/
def Obligations.WorkedEncodingsDecode : Prop :=
  encode .nop = .cmd 0x0000000000#40 ∧ encode (.noteOn 60#7 100#7) = .cmd 0x010000643C#40 ∧
  encode (.noteOn 117#7 127#7) = .cmd 0x0100007F75#40 ∧ encode (.noteOff 60#7) = .cmd 0x020000003C#40 ∧
  encode .allNotesOff = .cmd 0x0300000000#40 ∧ encode (.setPreset 2#8) = .cmd 0x1000000002#40 ∧
  encode (.setMasterGain 0x3F800000#32) = .cmd 0x113F800000#40 ∧
  encode (.setMasterGain 0x3F4CCCCD#32) = .cmd 0x113F4CCCCD#40 ∧
  encode (.setEchoOn true) = .cmd 0x1200000001#40 ∧ encode (.setEchoMix 0x3F000000#32) = .cmd 0x133F000000#40 ∧
  encode (.setEchoFb 0x3F000000#32) = .cmd 0x143F000000#40 ∧ encode (.setEchoMs 0x42C80000#32) = .cmd 0x1542C80000#40 ∧
  encode (Pseudo.expand (.ccEchoMs 64#7)) = .cmd 0x1543D10408#40 ∧
  encode (Pseudo.expand (.ccEchoFb 64#7)) = .cmd 0x143EDB503A#40 ∧
  encode (Pseudo.expand (.ccVolume 64#7)) = .cmd 0x113F010204#40 ∧
  decodeTableWord 40 0x010000643C = some (.noteOn 60#7 100#7) ∧ decodeTableWord 40 0x020000003C = some (.noteOff 60#7) ∧
  decodeTableWord 40 0x1542C80000 = some (.setEchoMs 0x42C80000#32) ∧
  decodeTableWord 8 1 = some .render ∧ decodeTableWord 8 0 = some .renderSkip

/-! Steps and ports. -/

/-- R81, R89: a word presented at its port that decodes to a well-formed instruction is run, on the state that no longer
presents it. -/
def Obligations.StepRunsThePresentedInstruction : Prop :=
  ∀ (s : State) (w : PortWord) (rest : List PortEdge) (i : Instr), s.ports = PortEdge.ofWord w :: rest →
    decode w = .instr i → i.wf = true → step s = exec i (s.setPorts rest)

/-- R162: a reserved opcode, with any argument, is accepted and changes nothing. -/
def Obligations.ReservedOpcodeChangesNothing : Prop :=
  ∀ (s : State) (op : BitVec 8) (arg : BitVec 32) (rest : List PortEdge),
    (0x04#8 ≤ op ∧ op ≤ 0x0F#8) ∨ (0x16#8 ≤ op ∧ op ≤ 0xFF#8) →
    s.ports = PortEdge.ofWord (.cmd (op ++ arg)) :: rest →
      decode (.cmd (op ++ arg)) = .reserved op ∧ step s = .next { s with ports := rest }

/-- R255, R98, R99: at one edge `Reset` comes before a render request and that before a command; a command not accepted
stays presented; with nothing presented the state stands (R6). -/
def Obligations.PortsAcceptResetThenRenderThenCommand : Prop :=
  ∀ (s : State) (e : PortEdge) (rest : List PortEdge), s.ports = e :: rest →
    (e.rst = true → step s = .next (s.setPorts (heldCommand e.command rest)).afterReset) ∧
    (∀ a : Bool, e.rst = false → e.request = some { avail := a, cutAfter := none } →
      step s = exec (if a then .render else .renderSkip) (s.setPorts (heldCommand e.command rest))) ∧
    (∀ (w : CommandWord) (i : Instr), e.rst = false → e.request = none → e.command = some w →
      decode (.cmd w) = .instr i → step s = exec i (s.setPorts rest)) ∧
    (e.rst = false → e.request = none → e.command = none → step s = .next (s.setPorts rest))

/-- R276: a `Reset` that rises after `k` frames of a block cuts it short: the frames sent stay sent, no further one
appears, and the state is the reset state. -/
def Obligations.ResetCutsARenderShort : Prop :=
  ∀ (s : State) (k : Nat) (c : Option CommandWord) (rest : List PortEdge) (u : State),
    s.ports = { rst := false, request := some { avail := true, cutAfter := some k }, command := c } :: rest →
    k ≤ s.cfg.blockSize → exec .render (s.setPorts (heldCommand c rest)) = .next u →
      step s = .next { u.afterReset with out := u.out.take (s.out.length + k) }

/-! Reset. -/

/-- R275: the value of every state element after a `Reset` event, in any state; the ROM is not changed by it. -/
def Obligations.ResetSetsEveryStateElement : Prop :=
  ∀ (s : State) (rest : List PortEdge), s.ports = PortEdge.ofReset :: rest →
    ∃ t, step s = .next t ∧
      (∀ i : Fin 8, t.voice i = { active := false, note := 0#7, age := 0#32, phase := 0#32, inc := 0#32, stage := .off,
                                  level := 0#32, velGain := 0#32, transient := 0#32, filt := 0#32 }) ∧
      t.preset = s.cfg.rstPreset ∧ t.masterGain = s.cfg.rstMasterGain ∧ t.echoOn = s.cfg.rstEchoOn ∧
      t.echoMix = s.cfg.rstEchoMix ∧ t.echoFb = s.cfg.rstEchoFb ∧ t.echoMs = s.cfg.rstEchoMs ∧
      t.echoLen = echoLenOf s.cfg s.cfg.rstEchoMs ∧ t.echoIdx = 0 ∧ t.lcg = s.cfg.lcgSeed ∧ t.ageCtr = 0#32 ∧
      (∀ k : Nat, EchoRam.read t.echoRam k = 0#32) ∧ t.rom = s.rom ∧
      t.cfg = s.cfg ∧ t.out = s.out ∧ t.ports = rest

/-- R275 with the defaults of R8: the reset state of the default build. -/
def Obligations.ResetStateOfTheDefaultBuild : Prop :=
  State.reset.preset = 0#2 ∧ State.reset.masterGain = 0#32 ∧ State.reset.echoOn = false ∧
    State.reset.echoMix = 0#32 ∧ State.reset.echoFb = 0#32 ∧ State.reset.echoMs = 0x41F00000#32 ∧
    State.reset.echoLen = 1323 ∧ State.reset.echoIdx = 0 ∧ State.reset.lcg = State.reset.cfg.lcgSeed ∧
    State.reset.ageCtr = 0#32 ∧ State.reset.rom.length = 1024 ∧ (∀ i : Fin 8, (State.reset.voice i).active = false) ∧
    State.reset.echoRam = []

/-- R275, R55: the reset state of every legal build with a conforming sine table meets the invariants. -/
def Obligations.ResetOfALegalBuildMeetsTheInvariants : Prop :=
  ∀ (c : Config) (rom : List F32), c.wf = true → RomInv (State.resetOf c rom) → StateInv (State.resetOf c rom)

/-- R275, R55: the reset state meets the invariants, whatever the open parameters are within their constraints. The
build is log entry 2's choice; the reference table is log entry 7's. -/
def Obligations.ResetMeetsTheInvariants : Prop := StateInv State.reset

/-! The commands. -/

/-- R155: NOP. -/
def Obligations.NopChangesNothing : Prop :=
  (∀ s : State, exec .nop s = .next s) ∧ ∀ arg : BitVec 32, decode (.cmd (0x00#8 ++ arg)) = .instr .nop

/-- R140: NOTE_ON writes all ten fields of the slot selected on the state before it, and adds 1 to the age counter. -/
def Obligations.NoteOnStartsTheSelectedSlot : Prop :=
  (∀ (s : State) (note vel : BitVec 7), s.ageCtr ≠ 0xFFFFFFFF#32 →
    exec (.noteOn note vel) s = .next
      { s with
        voices := s.voices.set (selectSlot s)
          { active := true, note := note, phase := 0#32, inc := fdiv (noteFreq note) (i2f s.cfg.sampleRate),
            stage := .attack, level := 0#32, velGain := fdiv (i2f vel.toNat) 0x42FE0000#32, transient := 0x3F800000#32,
            filt := 0#32, age := s.ageCtr }
        ageCtr := s.ageCtr + 1#32 }) ∧
  ∀ arg : BitVec 32,
    decode (.cmd (0x01#8 ++ arg)) = .instr (.noteOn (arg.extractLsb' 0 7) (arg.extractLsb' 8 7))

/-- R47, R253: with the age counter at 2^32 - 1 the model refuses NOTE_ON. -/
def Obligations.NoteOnAtTheLastAgeIsRefused : Prop :=
  ∀ (s : State) (note vel : BitVec 7), s.ageCtr = 0xFFFFFFFF#32 →
    exec (.noteOn note vel) s = .refused .ageCounterExhausted

/-- R136, R137, R138: the lowest inactive slot; with none, the lowest slot of the least age. -/
def Obligations.NoteOnTakesTheLowestFreeOrTheOldestSlot : Prop :=
  ∀ s : State,
    (∀ i : Fin 8, (s.voice i).active = false → (∀ j : Fin 8, j < i → (s.voice j).active = true) → selectSlot s = i) ∧
    ((∀ i : Fin 8, (s.voice i).active = true) →
      (∀ j : Fin 8, (s.voice (selectSlot s)).age.toNat ≤ (s.voice j).age.toNat) ∧
      ∀ j : Fin 8, j < selectSlot s → (s.voice (selectSlot s)).age.toNat < (s.voice j).age.toNat)

/-- R144: from all slots free, nine NOTE_ONs put the first eight in slots 0 to 7 with rising ages and the ninth in slot
0, the first one allocated. -/
def Obligations.NinthNoteStealsTheFirst : Prop :=
  ∀ (s : State) (notes : Fin 9 → BitVec 7 × BitVec 7), (∀ i : Fin 8, (s.voice i).active = false) →
    s.ageCtr.toNat + 9 < 2 ^ 32 →
    ∃ t, playNotes (List.ofFn notes) s = .next t ∧ t.ageCtr = s.ageCtr + 9#32 ∧
      (t.voice 0).age = s.ageCtr + 8#32 ∧ (t.voice 0).note = (notes 8).1 ∧
      (∀ i : Fin 8, i ≠ 0 → (t.voice i).age = s.ageCtr + BitVec.ofNat 32 i.val ∧
        (t.voice i).note = (notes i.castSucc).1) ∧
      ∀ i : Fin 8, (t.voice i).active = true ∧ (t.voice i).stage = .attack

/-- R145: NOTE_OFF puts every active voice that holds the note in Release and writes nothing else. -/
def Obligations.NoteOffReleasesEveryHoldingVoice : Prop :=
  (∀ (s : State) (note : BitVec 7), ∃ t, exec (.noteOff note) s = .next t ∧
    (∀ i : Fin 8, t.voice i =
      if (s.voice i).active = true ∧ (s.voice i).note = note then { s.voice i with stage := .release } else s.voice i) ∧
    t = { s with voices := t.voices }) ∧
  ∀ arg : BitVec 32, decode (.cmd (0x02#8 ++ arg)) = .instr (.noteOff (arg.extractLsb' 0 7))

/-- R146 items 1, 2 and 4: a NOTE_OFF of a note no active voice holds changes nothing, and a repeated one does
nothing more. -/
def Obligations.UnheldOrRepeatedNoteOffChangesNothing : Prop :=
  (∀ (s : State) (note : BitVec 7), (∀ i : Fin 8, (s.voice i).active = true → (s.voice i).note ≠ note) →
    exec (.noteOff note) s = .next s) ∧
  ∀ (s : State) (note : BitVec 7), ∃ t, exec (.noteOff note) s = .next t ∧ exec (.noteOff note) t = .next t

/-- R147: ALL_NOTES_OFF writes `active`, `stage` and `level` of all eight slots and nothing else. -/
def Obligations.AllNotesOffSilencesEverySlot : Prop :=
  (∀ s : State, ∃ t, exec .allNotesOff s = .next t ∧
    (∀ i : Fin 8, t.voice i = { s.voice i with active := false, stage := .off, level := 0#32 }) ∧
    t = { s with voices := t.voices } ∧ findFree t = some 0 ∧ (voiceSum t).sum = 0#32) ∧
  ∀ arg : BitVec 32, decode (.cmd (0x03#8 ++ arg)) = .instr .allNotesOff

/-- R156: SET_PRESET. -/
def Obligations.SetPresetClampsToThree : Prop :=
  (∀ (s : State) (val : BitVec 8),
    exec (.setPreset val) s = .next { s with preset := BitVec.ofNat 2 (min val.toNat 3) }) ∧
  ∀ arg : BitVec 32, decode (.cmd (0x10#8 ++ arg)) = .instr (.setPreset (arg.extractLsb' 0 8))

/-- R157: SET_MASTER_GAIN. -/
def Obligations.SetMasterGainClampsAndStores : Prop :=
  (∀ (s : State) (f : F32), exec (.setMasterGain f) s = .next
    { s with masterGain := if fge f 0#32 = false then 0#32 else if fgt f 0x3F800000#32 = true then 0x3F800000#32 else f }) ∧
  ∀ arg : BitVec 32, decode (.cmd (0x11#8 ++ arg)) = .instr (.setMasterGain arg)

/-- R158: SET_ECHO_ON. -/
def Obligations.SetEchoOnStoresTheBit : Prop :=
  (∀ (s : State) (on : Bool), exec (.setEchoOn on) s = .next { s with echoOn := on }) ∧
  ∀ arg : BitVec 32, decode (.cmd (0x12#8 ++ arg)) = .instr (.setEchoOn (arg.getLsbD 0))

/-- R159: SET_ECHO_MIX. -/
def Obligations.SetEchoMixClampsAndStores : Prop :=
  (∀ (s : State) (f : F32), exec (.setEchoMix f) s = .next
    { s with echoMix := if fge f 0#32 = false then 0#32 else if fgt f 0x3F800000#32 = true then 0x3F800000#32 else f }) ∧
  ∀ arg : BitVec 32, decode (.cmd (0x13#8 ++ arg)) = .instr (.setEchoMix arg)

/-- R160: SET_ECHO_FB. -/
def Obligations.SetEchoFbClampsAndStores : Prop :=
  (∀ (s : State) (f : F32), exec (.setEchoFb f) s = .next
    { s with echoFb := if fge f 0#32 = false then 0#32 else if fgt f 0x3F59999A#32 = true then 0x3F59999A#32 else f }) ∧
  ∀ arg : BitVec 32, decode (.cmd (0x14#8 ++ arg)) = .instr (.setEchoFb arg)

/-- R161, R197: SET_ECHO_MS writes the time, the length and, if it is out of range for the new length, the index. -/
def Obligations.SetEchoMsRecomputesLengthAndIndex : Prop :=
  (∀ (s : State) (f : F32), ∃ t, exec (.setEchoMs f) s = .next t ∧
    t.echoMs = (if fge f 0x41F00000#32 = false then 0x41F00000#32
      else if fgt f 0x44480000#32 = true then 0x44480000#32 else f) ∧
    t.echoLen = (min (max (ftrunc (fdiv (fmul t.echoMs (i2f s.cfg.sampleRate)) 0x447A0000#32)) 1)
      ((s.cfg.echoCap : Int) - 1)).toNat ∧
    t.echoIdx = (if t.echoLen ≤ s.echoIdx then 0 else s.echoIdx) ∧
    t = { s with echoMs := t.echoMs, echoLen := t.echoLen, echoIdx := t.echoIdx }) ∧
  ∀ arg : BitVec 32, decode (.cmd (0x15#8 ++ arg)) = .instr (.setEchoMs arg)

/-- R154: the stored value lies in the documented range whatever pattern the operand is, NaNs and infinities too. -/
def Obligations.SettersStoreOnlyLegalValues : Prop :=
  ∀ (s : State) (f : F32),
    (∃ t, exec (.setMasterGain f) s = .next t ∧ inRange t.masterGain 0#32 0x3F800000#32 = true) ∧
    (∃ t, exec (.setEchoMix f) s = .next t ∧ inRange t.echoMix 0#32 0x3F800000#32 = true) ∧
    (∃ t, exec (.setEchoFb f) s = .next t ∧ inRange t.echoFb 0#32 0x3F59999A#32 = true) ∧
    (∃ t, exec (.setEchoMs f) s = .next t ∧ inRange t.echoMs 0x41F00000#32 0x44480000#32 = true)

/-- R154, R199, R65: no command accesses either memory, sends a frame, or moves the noise generator. -/
def Obligations.CommandsLeaveMemoryAndOutputAlone : Prop :=
  ∀ (i : Instr) (s t : State), i ≠ .render → exec i s = .next t →
    t.echoRam = s.echoRam ∧ t.rom = s.rom ∧ t.lcg = s.lcg ∧ t.out = s.out ∧ t.cfg = s.cfg ∧ t.ports = s.ports ∧
    ((∀ f, i ≠ .setEchoMs f) → t.echoMs = s.echoMs ∧ t.echoLen = s.echoLen ∧ t.echoIdx = s.echoIdx) ∧
    ((∀ note vel, i ≠ .noteOn note vel) → t.ageCtr = s.ageCtr)

/-- R91: what each pseudo-instruction expands to, at every control value, and the end points of the linear maps. -/
def Obligations.ControlChangesExpandLinearly : Prop :=
  (∀ v g, g = fdiv (i2f (BitVec.toNat (w := 7) v)) 0x42FE0000#32 →
    Pseudo.expand (.ccVolume v) = .setMasterGain g ∧ Pseudo.expand (.ccEchoMix v) = .setEchoMix g ∧
    Pseudo.expand (.ccEchoOn v) = .setEchoOn (decide (64 ≤ v.toNat)) ∧
    Pseudo.expand (.ccEchoFb v) = .setEchoFb (fmul g 0x3F59999A#32) ∧
    Pseudo.expand (.ccEchoMs v) = .setEchoMs (fadd 0x41F00000#32 (fmul g 0x44408000#32)) ∧
    Pseudo.expand (.programChange v) = .setPreset (v.setWidth 8)) ∧
  Pseudo.expand (.ccVolume 0#7) = .setMasterGain 0#32 ∧ Pseudo.expand (.ccVolume 127#7) = .setMasterGain 0x3F800000#32 ∧
  Pseudo.expand (.ccEchoFb 127#7) = .setEchoFb 0x3F59999A#32 ∧
  Pseudo.expand (.ccEchoMs 0#7) = .setEchoMs 0x41F00000#32 ∧ Pseudo.expand (.ccEchoMs 127#7) = .setEchoMs 0x44480000#32

/-! The render. -/

/-- R212: RENDER_SKIP changes no state and sends nothing. -/
def Obligations.SkippedRenderChangesNothing : Prop :=
  (∀ s : State, exec .renderSkip s = .next s) ∧ decode (.request false) = .instr .renderSkip

/-- R211, R205, R213: RENDER completes, sends exactly `BLOCK_SIZE` words, the last marked, and writes only the fields a
frame writes; of the echo RAM only the cells the index passes over. -/
def Obligations.RenderSendsOneBlock : Prop :=
  ∀ s : State, (s.echoOn = true → EchoIndexInv s) →
    ∃ t w, exec .render s = .next t ∧ t.out = s.out ++ w ∧ w.length = s.cfg.blockSize ∧
      (∀ (k : Nat) (f : OutFrame), w[k]? = some f → f.last = decide (k + 1 = s.cfg.blockSize)) ∧
      t = { s with voices := t.voices, lcg := t.lcg, echoRam := t.echoRam, echoIdx := t.echoIdx, out := t.out } ∧
      (∀ i : Fin 8, (t.voice i).note = (s.voice i).note ∧ (t.voice i).age = (s.voice i).age ∧
        (t.voice i).inc = (s.voice i).inc ∧ (t.voice i).velGain = (s.voice i).velGain ∧
        ((s.voice i).active = false → t.voice i = s.voice i)) ∧
      (s.echoOn = false → t.echoIdx = s.echoIdx ∧ ∀ a : Nat, EchoRam.read t.echoRam a = EchoRam.read s.echoRam a) ∧
      (s.echoOn = true → t.echoIdx = (s.echoIdx + s.cfg.blockSize) % s.echoLen ∧
        ∀ a : Nat, (∀ k < s.cfg.blockSize, a ≠ (s.echoIdx + k) % s.echoLen) →
          EchoRam.read t.echoRam a = EchoRam.read s.echoRam a)

/-- R205, R195, R207, R208, R209, R210: the word a block of one frame sends is the voice sum, normalised, times the
master gain, through the echo, clamped after TANH, quantised, on both channels; the echo RAM and index it leaves are
those of the echo step on that mixed sample, and no register beyond them, the voices and the generator is written. -/
def Obligations.FrameFollowsTheDataFlow : Prop :=
  ∀ s : State, s.cfg.blockSize = 1 → (s.echoOn = true → s.echoIdx < s.cfg.echoCap) →
    ∃ t e, exec .render s = .next t ∧
      e = echoOut (voiceSum s).state (fmul (fmul (voiceSum s).sum 0x3EB504F3#32) s.masterGain) ∧
      (∃ q : BitVec 16, q = BitVec.ofInt 16 (ftrunc (fmul (clampf (tanhRef e) 0xBF800000#32 0x3F800000#32) 0x46FFFE00#32)) ∧
        t.out = s.out ++ [{ data := q ++ q, last := true }]) ∧
      t.voices = (voiceSum s).state.voices ∧ t.lcg = (voiceSum s).state.lcg ∧
      t.echoRam = (echoNext (voiceSum s).state (fmul (fmul (voiceSum s).sum 0x3EB504F3#32) s.masterGain)).echoRam ∧
      t.echoIdx = (echoNext (voiceSum s).state (fmul (fmul (voiceSum s).sum 0x3EB504F3#32) s.masterGain)).echoIdx ∧
      t = { s with voices := t.voices, lcg := t.lcg, echoRam := t.echoRam, echoIdx := t.echoIdx, out := t.out }

/-- R206: the voice sum starts at +0.0 and adds the contributions in ascending slot order, each voice on the state the
ones before it left. -/
def Obligations.VoicesAreSummedInSlotOrder : Prop :=
  ∀ s : State, voiceSum s =
    ([0, 1, 2, 3, 4, 5, 6, 7] : List (Fin 8)).foldl (fun (p : Sum) (i : Fin 8) =>
      match voiceFrame s.cfg s.rom s.preset (p.state.voice i) p.state.lcg with
      | { voice := v, lcg := l, sample := none } => { sum := p.sum, state := (p.state.setVoice i v).setLcg l }
      | { voice := v, lcg := l, sample := some x } =>
        { sum := fadd p.sum x, state := (p.state.setVoice i v).setLcg l }) { sum := 0#32, state := s }

/-- R211: with no active voice and the echo off, a render sends `BLOCK_SIZE` zero words and changes no state. -/
def Obligations.IdleBlockRendersZeros : Prop :=
  ∀ s : State, (∀ i : Fin 8, (s.voice i).active = false) → s.echoOn = false →
    inRange s.masterGain 0#32 0x3F800000#32 = true →
    exec .render s = .next { s with out := s.out ++ (List.range s.cfg.blockSize).map (fun k =>
      { data := 0#32, last := decide (k + 1 = s.cfg.blockSize) }) }

/-- R213 item 4, R280: with the master gain at zero and the echo off every sample is 0, whatever notes are played. -/
def Obligations.ZeroGainRendersZeros : Prop :=
  ∀ s : State, BoundsInv s → s.echoOn = false → fle s.masterGain 0#32 = true →
    ∃ t w, exec .render s = .next t ∧ t.out = s.out ++ w ∧ ∀ f ∈ w, f.data = 0#32

/-- R213 items 1 and 2: every word any step sends carries one sample on both channels, in -32767 .. 32767. -/
def Obligations.EverySentWordIsMonoAndInFullScale : Prop :=
  ∀ s t : State, step s = .next t → ∃ w, t.out = s.out ++ w ∧ ∀ f ∈ w,
    f.data.extractLsb' 16 16 = f.data.extractLsb' 0 16 ∧ -32767 ≤ (f.data.extractLsb' 0 16).toInt ∧
      (f.data.extractLsb' 0 16).toInt ≤ 32767

/-- R213 item 5: one block of `a + b` frames and a block of `a` then one of `b` give the same samples and the same
final state. -/
def Obligations.SplittingABlockChangesNoSample : Prop :=
  ∀ (s : State) (a b : Nat) (t : State), exec .render (s.withBlockSize (a + b)) = .next t →
    ∃ u v, exec .render (s.withBlockSize a) = .next u ∧ exec .render (u.withBlockSize b) = .next v ∧
      v.forgetBlocks = t.forgetBlocks

/-- R186: a render under another preset leaves the noise transient and generator, and the pad filter, where they are. -/
def Obligations.AuxiliaryStateOfOtherPresetsStands : Prop :=
  ∀ s t : State, exec .render s = .next t →
    (s.preset ≠ 2#2 → t.lcg = s.lcg ∧ ∀ i : Fin 8, (t.voice i).transient = (s.voice i).transient) ∧
    (s.preset ≠ 3#2 → ∀ i : Fin 8, (t.voice i).filt = (s.voice i).filt)

/-! One voice. -/

/-- R187, R181, R183: an inactive voice does nothing; one whose release ends contributes nothing and does not advance;
any other gives its raw sample at the phase before the advance, scaled by the level after the envelope step, and is left
as the raw sample leaves it (transient and filter memory updated by the preset) with the phase advanced. -/
def Obligations.VoiceFrameStepsEnvelopeThenSamplesThenAdvances : Prop :=
  ∀ (c : Config) (rom : List F32) (preset : BitVec 2) (v : Voice) (lcg : BitVec 32),
    (v.active = false → voiceFrame c rom preset v lcg = { voice := v, lcg := lcg, sample := none }) ∧
    (v.active = true → (envStep c v).active = false →
      voiceFrame c rom preset v lcg = { voice := envStep c v, lcg := lcg, sample := none }) ∧
    (v.active = true → (envStep c v).active = true →
      (voiceFrame c rom preset v lcg).sample =
        some (fmul (rawSample c rom preset (envStep c v) lcg).value (fmul (envStep c v).level v.velGain)) ∧
      (voiceFrame c rom preset v lcg).voice.phase = frac (fadd v.phase v.inc) ∧
      (voiceFrame c rom preset v lcg).voice.level = (envStep c v).level ∧
      (voiceFrame c rom preset v lcg).voice.stage = (envStep c v).stage ∧
      (voiceFrame c rom preset v lcg).voice =
        { (rawSample c rom preset (envStep c v) lcg).voice with phase := frac (fadd v.phase v.inc) } ∧
      (voiceFrame c rom preset v lcg).lcg = if preset = 2#2 then lcg * 1664525#32 + 1013904223#32 else lcg)

/-- R120: the transitions an envelope step can make are those of the table, and only the end of a release clears
`active`. -/
def Obligations.EnvelopeStepsOnlyAlongTheTable : Prop :=
  ∀ (c : Config) (v : Voice),
    (v.stage, (envStep c v).stage) ∈ [(Stage.attack, Stage.attack), (.attack, .decay), (.decay, .decay),
      (.decay, .sustain), (.sustain, .sustain), (.release, .release), (.release, .off), (.off, .off)] ∧
    ((envStep c v).active = v.active ∨
      (v.stage = .release ∧ (envStep c v).stage = .off ∧ (envStep c v).active = false ∧ (envStep c v).level = 0#32))

/-- R129: the level does not fall in Attack, does not rise in Decay and Release, stands in Sustain, and stays in
`[0, 1]`; `LevelOk` (R124, R125: in Decay not below the sustain level, in Sustain at it) is kept. -/
def Obligations.EnvelopeIsMonotoneAndBounded : Prop :=
  ∀ (c : Config) (v : Voice), c.wf = true → LevelOk c v →
    (v.stage = .attack → fle v.level (envStep c v).level = true) ∧
    (v.stage = .decay → fle (envStep c v).level v.level = true) ∧
    (v.stage = .release → fle (envStep c v).level v.level = true) ∧
    (v.stage = .sustain → (envStep c v).level = v.level) ∧ LevelOk c (envStep c v)

/-- R121, R123, R124, R125, R126, R127, R128: one envelope step, stage by stage: a stage whose time is at most `ENV_EPS`
completes at once, a ramp that reaches its end lands on it exactly, any other moves the level by its step. -/
def Obligations.EnvelopeStepFollowsItsStage : Prop :=
  ∀ (c : Config) (v : Voice) (att dec rel : F32),
    att = fdiv 0x3F800000#32 (fmul c.attackS (i2f c.sampleRate)) →
    dec = fdiv (fsub 0x3F800000#32 c.sustainLevel) (fmul c.decayS (i2f c.sampleRate)) →
    rel = fdiv 0x3F800000#32 (fmul c.releaseS (i2f c.sampleRate)) →
    (v.stage = .attack → envStep c v =
      if fle c.attackS c.envEps = true ∨ fge (fadd v.level att) 0x3F800000#32 = true
      then { v with level := 0x3F800000#32, stage := .decay } else { v with level := fadd v.level att }) ∧
    (v.stage = .decay → envStep c v =
      if fle c.decayS c.envEps = true ∨ fle (fsub v.level dec) c.sustainLevel = true
      then { v with level := c.sustainLevel, stage := .sustain } else { v with level := fsub v.level dec }) ∧
    (v.stage = .sustain ∨ v.stage = .off → envStep c v = v) ∧
    (v.stage = .release → envStep c v =
      if fle c.releaseS c.envEps = true ∨ fle (fsub v.level rel) 0#32 = true
      then { v with level := 0#32, stage := .off, active := false } else { v with level := fsub v.level rel })

/-- R185: the phase stays in `[0, 1)` after an advance by any finite non-negative increment. -/
def Obligations.PhaseAdvanceStaysBelowOne : Prop :=
  ∀ v : Voice, phaseAdvance v = { v with phase := frac (fadd v.phase v.inc) } ∧
    (inUnitInterval v.phase = true → incOk v.inc = true → inUnitInterval (phaseAdvance v).phase = true)

/-- R182: the generator is the linear-congruential one, and the sample is exactly its top 24 bits over 2^24, in
`[0, 1)`. -/
def Obligations.NoiseSampleIsExact : Prop :=
  ∀ x : BitVec 32, (lcgNext x).toNat = (x.toNat * 1664525 + 1013904223) % 2 ^ 32 ∧
    isFinite (lcgUniform x) = true ∧ units (lcgUniform x) = (x.toNat / 256 : Nat) * 2 ^ 125 ∧
    inUnitInterval (lcgUniform x) = true

/-- R178 to R183: which formula each preset evaluates, and what it writes. -/
def Obligations.PresetsEvaluateTheirFormulas : Prop :=
  ∀ (c : Config) (rom : List F32) (v : Voice) (lcg : BitVec 32),
    rawSample c rom 0#2 v lcg = { voice := v, lcg := lcg, value := lookup rom v.phase } ∧
    rawSample c rom 1#2 v lcg = { voice := v, lcg := lcg, value := (
      fadd (fadd (fadd (lookup rom v.phase) (fmul 0x3F000000#32 (lookup rom (frac (fmul 0x40000000#32 v.phase)))))
        (fmul 0x3E99999A#32 (lookup rom (frac (fmul 0x40400000#32 v.phase)))))
        (fmul 0x3E4CCCCD#32 (lookup rom (frac (fmul 0x3FC00000#32 v.phase))))) } ∧
    (∃ r, r = rawSample c rom 2#2 v lcg ∧ r.voice = { v with transient := fmul v.transient 0x3F7FCB92#32 } ∧
      r.lcg = lcgNext lcg ∧ r.value =
        fadd (fadd (fadd (lookup rom v.phase) (fmul 0x3EB33333#32 (lookup rom (frac (fmul 0x40000000#32 v.phase)))))
          (fmul 0x3E19999A#32 (lookup rom (frac (fmul 0x40800000#32 v.phase)))))
          (fmul (fmul (fsub (fmul (lcgUniform r.lcg) 0x40000000#32) 0x3F800000#32) 0x3E19999A#32) r.voice.transient)) ∧
    ∃ r x, r = rawSample c rom 3#2 v lcg ∧
      x = fadd (fmul 0x3F19999A#32 (lookup rom (frac (fmul 0x3F808312#32 v.phase))))
        (fmul 0x3F19999A#32 (lookup rom (frac (fmul 0x3F7EF9DB#32 v.phase)))) ∧
      r.value = fadd v.filt (fmul c.padAlpha (fsub x v.filt)) ∧ r.voice = { v with filt := r.value } ∧ r.lcg = lcg

/-- R61, R110, R111 item 4, R112: the index is the exact floor of the phase times the table size, wrapped with the
non-negative remainder, for phases of either sign and beyond one cycle. -/
def Obligations.LookupReadsTheExactFloorEntry : Prop :=
  ∀ (rom : List F32) (b : Nat) (p : F32), rom.length = 2 ^ b → 2 ≤ b → b ≤ 23 → isFinite p = true →
    magUnits p < 2 ^ 249 →
    rom[((units p * 2 ^ b / 2 ^ 149) % 2 ^ b).toNat]? = some (lookup rom p)

/-! Echo, limiter, quantiser. -/

/-- R196: a disabled echo returns its input bit for bit and changes nothing. -/
def Obligations.DisabledEchoIsTransparent : Prop :=
  ∀ (s : State) (x : F32), s.echoOn = false → echoOut s x = x ∧ echoNext s x = s

/-- R195: an enabled echo writes `y` to the cell at the index, advances the index within the length, leaves every other
cell and register alone, and mixes the signal the wet tap selects. -/
def Obligations.EnabledEchoWritesOneCell : Prop :=
  ∀ (s : State) (x : F32), s.echoOn = true → EchoIndexInv s → EchoRam.wf s.echoRam = true →
    ∃ d y, d = EchoRam.read s.echoRam s.echoIdx ∧ y = fadd x (fmul s.echoFb d) ∧
      EchoRam.read (echoNext s x).echoRam s.echoIdx = y ∧
      (∀ a : Nat, a ≠ s.echoIdx → EchoRam.read (echoNext s x).echoRam a = EchoRam.read s.echoRam a) ∧
      (echoNext s x).echoIdx = (s.echoIdx + 1) % s.echoLen ∧
      echoNext s x = { s with echoRam := (echoNext s x).echoRam, echoIdx := (echoNext s x).echoIdx } ∧
      (s.cfg.wetTap = .y → echoOut s x = fadd (fmul (fsub 0x3F800000#32 s.echoMix) x) (fmul s.echoMix y)) ∧
      (s.cfg.wetTap = .d → echoOut s x = fadd (fmul (fsub 0x3F800000#32 s.echoMix) x) (fmul s.echoMix d))

/-- R198: at feedback 0 and mix 1 the output is the input under `ECHO_WET_TAP = Y` and the delayed sample under `D`,
and the line records the input. -/
def Obligations.ZeroFeedbackEchoByWetTap : Prop :=
  ∀ (s : State) (x : F32), s.echoOn = true → EchoRam.wf s.echoRam = true → s.echoFb = 0#32 →
    s.echoMix = 0x3F800000#32 → isFinite x = true → isFinite (EchoRam.read s.echoRam s.echoIdx) = true →
    (s.cfg.wetTap = .y → feq (echoOut s x) x = true) ∧
    (s.cfg.wetTap = .d → feq (echoOut s x) (EchoRam.read s.echoRam s.echoIdx) = true) ∧
    feq (EchoRam.read (echoNext s x).echoRam s.echoIdx) x = true

/-- R208: the limiter answers in `[-1, 1]` for every input and is odd off the NaNs. -/
def Obligations.LimiterIsBoundedAndOdd : Prop :=
  ∀ e : F32, inRange (limit e) 0xBF800000#32 0x3F800000#32 = true ∧
    (isNan e = false → limit (fneg e) = fneg (limit e))

/-- R209: on `[-1, 1]` the quantiser answers in -32767 .. 32767 and is odd. -/
def Obligations.QuantiserIsBoundedAndOdd : Prop :=
  ∀ c : F32, inRange c 0xBF800000#32 0x3F800000#32 = true →
    -32767 ≤ quantise c ∧ quantise c ≤ 32767 ∧ quantise (fneg c) = -quantise c

/-! Invariants that every step keeps, and what they give. -/

/-- R55 items 1 and 2: a voice is active exactly when its stage is not Off, and Off is at level +0.0. -/
def Obligations.EveryStepKeepsActiveAndStageTogether : Prop :=
  ∀ s t : State, VoicesInv s → step s = .next t → VoicesInv t

/-- R55 item 2: every level stays in `[0, 1]`. -/
def Obligations.EveryStepKeepsLevelsInUnit : Prop :=
  ∀ s t : State, LevelsInv s → step s = .next t → LevelsInv t

/-- R55 item 3: every phase stays in `[0, 1)`. -/
def Obligations.EveryStepKeepsPhasesBelowOne : Prop :=
  ∀ s t : State, PhasesInv s → step s = .next t → PhasesInv t

/-- R55 item 4: the ages of active voices stay distinct and below the counter. -/
def Obligations.EveryStepKeepsAgesDistinct : Prop :=
  ∀ s t : State, AgesInv s → step s = .next t → AgesInv t

/-- R55 items 5 and 6: the echo length and index stay in range, the parameters in theirs, and the length is the one of
the echo time. -/
def Obligations.EveryStepKeepsParametersLegal : Prop :=
  ∀ s t : State, EchoIndexInv s ∧ ParamsInv s → step s = .next t → EchoIndexInv t ∧ ParamsInv t

/-- R62, R55 item 5: the echo index stays in range. That the echo RAM keeps its canonical form and lists no cell at or
above `ECHO_CAP - 1` is about the model's own representation (log entry 10): a cell that is not listed holds +0.0,
written or not. -/
def Obligations.EveryStepKeepsMemoryCanonical : Prop :=
  ∀ s t : State, MemoryInv s ∧ EchoIndexInv s → step s = .next t → MemoryInv t ∧ EchoIndexInv t

/-- R19, R188, R200: every step keeps the bounds of the signal path, the echo cells below 64 among them. -/
def Obligations.EveryStepKeepsTheSignalBounds : Prop :=
  ∀ s t : State, BoundsInv s → step s = .next t → BoundsInv t

/-- R55 item 7, R19: within the bounds every F32 state element is finite, after every step too. -/
def Obligations.BoundedStatesAreFinite : Prop :=
  ∀ s : State, BoundsInv s → FiniteState s

/-- R49, R74: no step changes the sine ROM or the build. -/
def Obligations.NoStepChangesRomOrBuild : Prop :=
  ∀ s t : State, step s = .next t → t.rom = s.rom ∧ t.cfg = s.cfg

/-- R250, R253: with `EchoIndexInv` and the age counter not exhausted every step answers a next state. A refusal is the
one of R47 and R253; a fault, the model's own `echoCellAbsent` (log entry 9), needs the echo on and `EchoIndexInv` false. -/
def Obligations.StepsStopOnlyAtTheLastAgeOrOutsideTheEchoInvariant : Prop :=
  ∀ s : State, (CanStep s → ∃ t, step s = .next t) ∧
    (∀ r, step s = .refused r → r = .ageCounterExhausted ∧ s.ageCtr = 0xFFFFFFFF#32) ∧
    (∀ r, step s = .fault r → s.echoOn = true ∧ ¬ EchoIndexInv s)
end

