-- ==== Sys2Proof/Laws/EchoRam.lean ====
section
/-! SUPPORT. The echo RAM as a memory: read after write, and the canonical form every operation keeps. -/

namespace Sys2Proof.Machine

@[simp] theorem EchoRam.read_nil (k : Nat) : EchoRam.read [] k = 0#32 := rfl

theorem EchoRam.read_cons (a : Nat) (v : F32) (m : EchoRam) (k : Nat) :
    EchoRam.read ((a, v) :: m) k = if k = a then v else EchoRam.read m k := rfl

/-- Below the cell a canonical list starts from, every cell holds +0.0. -/
theorem EchoRam.read_below {m : EchoRam} {lo k : Nat} (h : EchoRam.wfFrom lo m = true) (hk : k < lo) :
    EchoRam.read m k = 0#32 := by
  induction m generalizing lo with
  | nil => rfl
  | cons c m ih =>
    obtain ⟨a, v⟩ := c
    simp only [EchoRam.wfFrom, Bool.and_eq_true, decide_eq_true_eq] at h
    rw [EchoRam.read_cons, if_neg (by omega)]
    exact ih h.2 (by omega)

theorem EchoRam.wfFrom_mono {m : EchoRam} {lo lo' : Nat} (h : EchoRam.wfFrom lo m = true) (hl : lo' ≤ lo) :
    EchoRam.wfFrom lo' m = true := by
  cases m with
  | nil => rfl
  | cons c m =>
    obtain ⟨a, v⟩ := c
    simp only [EchoRam.wfFrom, Bool.and_eq_true, decide_eq_true_eq] at h ⊢
    exact ⟨⟨by omega, h.1.2⟩, h.2⟩

/-- A write keeps the canonical form, from any cell not above the one written. -/
theorem EchoRam.wfFrom_write {m : EchoRam} {lo k : Nat} (x : F32) (h : EchoRam.wfFrom lo m = true) (hk : lo ≤ k) :
    EchoRam.wfFrom lo (EchoRam.write m k x) = true := by
  induction m generalizing lo with
  | nil =>
    by_cases hx : x = 0#32
    · simp [EchoRam.write, hx, EchoRam.wfFrom]
    · simp [EchoRam.write, hx, EchoRam.wfFrom, hk]
  | cons c m ih =>
    obtain ⟨a, v⟩ := c
    simp only [EchoRam.wfFrom, Bool.and_eq_true, decide_eq_true_eq, bne_iff_ne] at h
    obtain ⟨⟨hla, hv⟩, hm⟩ := h
    simp only [EchoRam.write]
    split_ifs with h1 h2 h3 h4
    · simp [EchoRam.wfFrom, hla, hv, hm]
    · simp [EchoRam.wfFrom, hk, h2, hv, hm]; omega
    · exact EchoRam.wfFrom_mono hm (by omega)
    · simp [EchoRam.wfFrom, hla, h4, hm]
    · simp [EchoRam.wfFrom, hla, hv, ih hm (by omega)]

/-- A write keeps the canonical form. -/
theorem EchoRam.wf_write {m : EchoRam} (k : Nat) (x : F32) (h : EchoRam.wf m = true) :
    EchoRam.wf (EchoRam.write m k x) = true := EchoRam.wfFrom_write x h (Nat.zero_le k)

@[simp] theorem EchoRam.wf_nil : EchoRam.wf [] = true := rfl

/-- What a canonical echo RAM reads as after a write. -/
theorem EchoRam.readFrom_write {m : EchoRam} {lo : Nat} (k j : Nat) (x : F32) (h : EchoRam.wfFrom lo m = true) :
    EchoRam.read (EchoRam.write m k x) j = if j = k then x else EchoRam.read m j := by
  induction m generalizing lo with
  | nil =>
    by_cases hx : x = 0#32
    · simp [EchoRam.write, hx]
    · simp [EchoRam.write, hx, EchoRam.read_cons]
  | cons c m ih =>
    obtain ⟨a, v⟩ := c
    simp only [EchoRam.wfFrom, Bool.and_eq_true, decide_eq_true_eq] at h
    have hm := h.2
    rcases Nat.lt_trichotomy k a with hlt | heq | hgt
    · by_cases hx : x = 0#32
      · rw [EchoRam.write, if_pos hlt, if_pos hx]
        split_ifs with hj
        · rw [EchoRam.read_cons, if_neg (by omega), EchoRam.read_below hm (by omega), hx]
        · rfl
      · rw [EchoRam.write, if_pos hlt, if_neg hx, EchoRam.read_cons]
    · subst heq
      by_cases hx : x = 0#32
      · rw [EchoRam.write, if_neg (by omega), if_pos rfl, if_pos hx, EchoRam.read_cons]
        split_ifs with hj
        · rw [EchoRam.read_below hm (by omega), hx]
        · rfl
      · rw [EchoRam.write, if_neg (by omega), if_pos rfl, if_neg hx, EchoRam.read_cons, EchoRam.read_cons]
        split_ifs <;> rfl
    · rw [EchoRam.write, if_neg (by omega), if_neg (by omega), EchoRam.read_cons, ih hm, EchoRam.read_cons]
      split_ifs <;> first | rfl | omega

/-- Read after write: the cell written holds the value, every other cell what it held. -/
theorem EchoRam.read_write {m : EchoRam} (k j : Nat) (x : F32) (h : EchoRam.wf m = true) :
    EchoRam.read (EchoRam.write m k x) j = if j = k then x else EchoRam.read m j :=
  EchoRam.readFrom_write k j x h

/-- A cell a write lists was listed before or is the one written. -/
theorem EchoRam.mem_write {m : EchoRam} {k : Nat} {x : F32} {c : Nat × F32} (h : c ∈ EchoRam.write m k x) :
    c ∈ m ∨ c = (k, x) := by
  induction m with
  | nil =>
    simp only [EchoRam.write] at h
    split_ifs at h <;> simp_all
  | cons d m ih =>
    obtain ⟨a, v⟩ := d
    simp only [EchoRam.write] at h
    split_ifs at h with h1 h2 h3 h4 <;> simp only [List.mem_cons] at h ⊢ <;> first | tauto | (subst h3; tauto)

/-- Canonical echo RAMs that read alike are equal. -/
theorem EchoRam.ext_read {m m' : EchoRam} {lo : Nat} (h : EchoRam.wfFrom lo m = true)
    (h' : EchoRam.wfFrom lo m' = true) (hr : ∀ k, EchoRam.read m k = EchoRam.read m' k) : m = m' := by
  induction m generalizing m' lo with
  | nil =>
    cases m' with
    | nil => rfl
    | cons c t =>
      obtain ⟨a, v⟩ := c
      simp only [EchoRam.wfFrom, Bool.and_eq_true, bne_iff_ne, decide_eq_true_eq] at h'
      have := hr a
      simp [EchoRam.read_cons] at this
      exact absurd this.symm h'.1.2
  | cons c t ih =>
    obtain ⟨a, v⟩ := c
    simp only [EchoRam.wfFrom, Bool.and_eq_true, bne_iff_ne, decide_eq_true_eq] at h
    cases m' with
    | nil =>
      have := hr a
      simp [EchoRam.read_cons] at this
      exact absurd this h.1.2
    | cons c' t' =>
      obtain ⟨b, w⟩ := c'
      simp only [EchoRam.wfFrom, Bool.and_eq_true, bne_iff_ne, decide_eq_true_eq] at h'
      have hab : a = b := by
        rcases Nat.lt_trichotomy a b with hlt | heq | hgt
        · have := hr a
          rw [EchoRam.read_cons, EchoRam.read_cons, if_pos rfl, if_neg (by omega),
            EchoRam.read_below h'.2 (by omega)] at this
          exact absurd this h.1.2
        · exact heq
        · have := hr b
          rw [EchoRam.read_cons, EchoRam.read_cons, if_pos rfl, if_neg (by omega),
            EchoRam.read_below h.2 (by omega)] at this
          exact absurd this.symm h'.1.2
      subst hab
      have hvw : v = w := by simpa [EchoRam.read_cons] using hr a
      subst hvw
      have := ih h.2 h'.2 (fun k => by
        by_cases hk : k = a
        · subst hk
          rw [EchoRam.read_below h.2 (by omega), EchoRam.read_below h'.2 (by omega)]
        · simpa [EchoRam.read_cons, hk] using hr k)
      rw [this]

end Sys2Proof.Machine
end

