-- ==== Sys2Proof/Laws/Float.lean ====
section
/-! SUPPORT. The comparisons and the clamp, once each. -/

namespace Sys2Proof.Machine

theorem flt_iff {a b : F32} : flt a b = true ↔ isNan a = false ∧ isNan b = false ∧ orderKey a < orderKey b := by
  simp [flt, and_assoc]

theorem fle_iff {a b : F32} : fle a b = true ↔ isNan a = false ∧ isNan b = false ∧ orderKey a ≤ orderKey b := by
  simp [fle, and_assoc]

/-- A comparison that holds has no NaN in it (R14). -/
theorem not_nan_of_fle {a b : F32} (h : fle a b = true) : isNan a = false ∧ isNan b = false :=
  ⟨(fle_iff.mp h).1, (fle_iff.mp h).2.1⟩

theorem fle_trans {a b c : F32} (h : fle a b = true) (h' : fle b c = true) : fle a c = true := by
  rw [fle_iff] at *
  exact ⟨h.1, h'.2.1, h.2.2.trans h'.2.2⟩

/-- Off the NaNs, `<` is the negation of `≥`. -/
theorem flt_of_not_fle {a b : F32} (ha : isNan a = false) (hb : isNan b = false) (h : fle b a = false) :
    flt a b = true := by
  rw [flt_iff]
  refine ⟨ha, hb, ?_⟩
  by_contra hk
  rw [(fle_iff.mpr ⟨hb, ha, not_lt.mp hk⟩)] at h
  cases h

/-- What a clamp can answer (R16): the lower bound, the upper bound, or the value itself, which is then in range. -/
theorem clampf_cases (x lo hi : F32) :
    (fge x lo = false ∧ clampf x lo hi = lo) ∨ (fge x lo = true ∧ fgt x hi = true ∧ clampf x lo hi = hi) ∨
      (fge x lo = true ∧ fgt x hi = false ∧ clampf x lo hi = x) := by
  unfold clampf
  cases fge x lo <;> cases fgt x hi <;> simp

/-- A finite value is no NaN. -/
theorem not_nan_of_finite {a : F32} (h : isFinite a = true) : isNan a = false := by
  simp_all [isFinite, isNan]

/-- The two zeros are the values at key 0 (R14). -/
theorem orderKey_eq_zero_iff {a : F32} : orderKey a = 0 ↔ a.extractLsb' 0 31 = 0#31 := by
  unfold orderKey
  constructor
  · intro h
    apply BitVec.eq_of_toNat_eq
    split at h <;> simp at h ⊢ <;> omega
  · intro h
    simp [h]

end Sys2Proof.Machine
end

