-- ==== Sys2Proof/Laws/State.lean ====
section
/-! SUPPORT. One lemma per field per update of the state, true by definition, so that no proof unfolds an update. -/

namespace Sys2Proof.Machine

/-- The state with the parts a render may write replaced, and words sent (R205). -/
def State.rendered (s : State) (vs : Vector Voice 8) (l : BitVec 32) (m : EchoRam) (k : Nat) (o : List OutFrame) : State :=
  { s with voices := vs, lcg := l, echoRam := m, echoIdx := k, out := s.out ++ o }

variable (s : State)

@[simp] theorem State.setVoice_voices (i : Fin 8) (v : Voice) : (s.setVoice i v).voices = s.voices.set i v := rfl
@[simp] theorem State.setVoice_preset (i : Fin 8) (v : Voice) : (s.setVoice i v).preset = s.preset := rfl
@[simp] theorem State.setVoice_masterGain (i : Fin 8) (v : Voice) : (s.setVoice i v).masterGain = s.masterGain := rfl
@[simp] theorem State.setVoice_echoOn (i : Fin 8) (v : Voice) : (s.setVoice i v).echoOn = s.echoOn := rfl
@[simp] theorem State.setVoice_echoMix (i : Fin 8) (v : Voice) : (s.setVoice i v).echoMix = s.echoMix := rfl
@[simp] theorem State.setVoice_echoFb (i : Fin 8) (v : Voice) : (s.setVoice i v).echoFb = s.echoFb := rfl
@[simp] theorem State.setVoice_echoMs (i : Fin 8) (v : Voice) : (s.setVoice i v).echoMs = s.echoMs := rfl
@[simp] theorem State.setVoice_echoLen (i : Fin 8) (v : Voice) : (s.setVoice i v).echoLen = s.echoLen := rfl
@[simp] theorem State.setVoice_echoIdx (i : Fin 8) (v : Voice) : (s.setVoice i v).echoIdx = s.echoIdx := rfl
@[simp] theorem State.setVoice_lcg (i : Fin 8) (v : Voice) : (s.setVoice i v).lcg = s.lcg := rfl
@[simp] theorem State.setVoice_ageCtr (i : Fin 8) (v : Voice) : (s.setVoice i v).ageCtr = s.ageCtr := rfl
@[simp] theorem State.setVoice_rom (i : Fin 8) (v : Voice) : (s.setVoice i v).rom = s.rom := rfl
@[simp] theorem State.setVoice_echoRam (i : Fin 8) (v : Voice) : (s.setVoice i v).echoRam = s.echoRam := rfl
@[simp] theorem State.setVoice_cfg (i : Fin 8) (v : Voice) : (s.setVoice i v).cfg = s.cfg := rfl
@[simp] theorem State.setVoice_ports (i : Fin 8) (v : Voice) : (s.setVoice i v).ports = s.ports := rfl
@[simp] theorem State.setVoice_out (i : Fin 8) (v : Voice) : (s.setVoice i v).out = s.out := rfl

@[simp] theorem State.mapVoices_voices (f : Voice → Voice) : (s.mapVoices f).voices = s.voices.map f := rfl
@[simp] theorem State.mapVoices_preset (f : Voice → Voice) : (s.mapVoices f).preset = s.preset := rfl
@[simp] theorem State.mapVoices_masterGain (f : Voice → Voice) : (s.mapVoices f).masterGain = s.masterGain := rfl
@[simp] theorem State.mapVoices_echoOn (f : Voice → Voice) : (s.mapVoices f).echoOn = s.echoOn := rfl
@[simp] theorem State.mapVoices_echoMix (f : Voice → Voice) : (s.mapVoices f).echoMix = s.echoMix := rfl
@[simp] theorem State.mapVoices_echoFb (f : Voice → Voice) : (s.mapVoices f).echoFb = s.echoFb := rfl
@[simp] theorem State.mapVoices_echoMs (f : Voice → Voice) : (s.mapVoices f).echoMs = s.echoMs := rfl
@[simp] theorem State.mapVoices_echoLen (f : Voice → Voice) : (s.mapVoices f).echoLen = s.echoLen := rfl
@[simp] theorem State.mapVoices_echoIdx (f : Voice → Voice) : (s.mapVoices f).echoIdx = s.echoIdx := rfl
@[simp] theorem State.mapVoices_lcg (f : Voice → Voice) : (s.mapVoices f).lcg = s.lcg := rfl
@[simp] theorem State.mapVoices_ageCtr (f : Voice → Voice) : (s.mapVoices f).ageCtr = s.ageCtr := rfl
@[simp] theorem State.mapVoices_rom (f : Voice → Voice) : (s.mapVoices f).rom = s.rom := rfl
@[simp] theorem State.mapVoices_echoRam (f : Voice → Voice) : (s.mapVoices f).echoRam = s.echoRam := rfl
@[simp] theorem State.mapVoices_cfg (f : Voice → Voice) : (s.mapVoices f).cfg = s.cfg := rfl
@[simp] theorem State.mapVoices_ports (f : Voice → Voice) : (s.mapVoices f).ports = s.ports := rfl
@[simp] theorem State.mapVoices_out (f : Voice → Voice) : (s.mapVoices f).out = s.out := rfl

@[simp] theorem State.setLcg_voices (x : BitVec 32) : (s.setLcg x).voices = s.voices := rfl
@[simp] theorem State.setLcg_preset (x : BitVec 32) : (s.setLcg x).preset = s.preset := rfl
@[simp] theorem State.setLcg_masterGain (x : BitVec 32) : (s.setLcg x).masterGain = s.masterGain := rfl
@[simp] theorem State.setLcg_echoOn (x : BitVec 32) : (s.setLcg x).echoOn = s.echoOn := rfl
@[simp] theorem State.setLcg_echoMix (x : BitVec 32) : (s.setLcg x).echoMix = s.echoMix := rfl
@[simp] theorem State.setLcg_echoFb (x : BitVec 32) : (s.setLcg x).echoFb = s.echoFb := rfl
@[simp] theorem State.setLcg_echoMs (x : BitVec 32) : (s.setLcg x).echoMs = s.echoMs := rfl
@[simp] theorem State.setLcg_echoLen (x : BitVec 32) : (s.setLcg x).echoLen = s.echoLen := rfl
@[simp] theorem State.setLcg_echoIdx (x : BitVec 32) : (s.setLcg x).echoIdx = s.echoIdx := rfl
@[simp] theorem State.setLcg_lcg (x : BitVec 32) : (s.setLcg x).lcg = x := rfl
@[simp] theorem State.setLcg_ageCtr (x : BitVec 32) : (s.setLcg x).ageCtr = s.ageCtr := rfl
@[simp] theorem State.setLcg_rom (x : BitVec 32) : (s.setLcg x).rom = s.rom := rfl
@[simp] theorem State.setLcg_echoRam (x : BitVec 32) : (s.setLcg x).echoRam = s.echoRam := rfl
@[simp] theorem State.setLcg_cfg (x : BitVec 32) : (s.setLcg x).cfg = s.cfg := rfl
@[simp] theorem State.setLcg_ports (x : BitVec 32) : (s.setLcg x).ports = s.ports := rfl
@[simp] theorem State.setLcg_out (x : BitVec 32) : (s.setLcg x).out = s.out := rfl

@[simp] theorem State.setAgeCtr_voices (x : BitVec 32) : (s.setAgeCtr x).voices = s.voices := rfl
@[simp] theorem State.setAgeCtr_preset (x : BitVec 32) : (s.setAgeCtr x).preset = s.preset := rfl
@[simp] theorem State.setAgeCtr_masterGain (x : BitVec 32) : (s.setAgeCtr x).masterGain = s.masterGain := rfl
@[simp] theorem State.setAgeCtr_echoOn (x : BitVec 32) : (s.setAgeCtr x).echoOn = s.echoOn := rfl
@[simp] theorem State.setAgeCtr_echoMix (x : BitVec 32) : (s.setAgeCtr x).echoMix = s.echoMix := rfl
@[simp] theorem State.setAgeCtr_echoFb (x : BitVec 32) : (s.setAgeCtr x).echoFb = s.echoFb := rfl
@[simp] theorem State.setAgeCtr_echoMs (x : BitVec 32) : (s.setAgeCtr x).echoMs = s.echoMs := rfl
@[simp] theorem State.setAgeCtr_echoLen (x : BitVec 32) : (s.setAgeCtr x).echoLen = s.echoLen := rfl
@[simp] theorem State.setAgeCtr_echoIdx (x : BitVec 32) : (s.setAgeCtr x).echoIdx = s.echoIdx := rfl
@[simp] theorem State.setAgeCtr_lcg (x : BitVec 32) : (s.setAgeCtr x).lcg = s.lcg := rfl
@[simp] theorem State.setAgeCtr_ageCtr (x : BitVec 32) : (s.setAgeCtr x).ageCtr = x := rfl
@[simp] theorem State.setAgeCtr_rom (x : BitVec 32) : (s.setAgeCtr x).rom = s.rom := rfl
@[simp] theorem State.setAgeCtr_echoRam (x : BitVec 32) : (s.setAgeCtr x).echoRam = s.echoRam := rfl
@[simp] theorem State.setAgeCtr_cfg (x : BitVec 32) : (s.setAgeCtr x).cfg = s.cfg := rfl
@[simp] theorem State.setAgeCtr_ports (x : BitVec 32) : (s.setAgeCtr x).ports = s.ports := rfl
@[simp] theorem State.setAgeCtr_out (x : BitVec 32) : (s.setAgeCtr x).out = s.out := rfl

@[simp] theorem State.setEchoIdx_voices (k : Nat) : (s.setEchoIdx k).voices = s.voices := rfl
@[simp] theorem State.setEchoIdx_preset (k : Nat) : (s.setEchoIdx k).preset = s.preset := rfl
@[simp] theorem State.setEchoIdx_masterGain (k : Nat) : (s.setEchoIdx k).masterGain = s.masterGain := rfl
@[simp] theorem State.setEchoIdx_echoOn (k : Nat) : (s.setEchoIdx k).echoOn = s.echoOn := rfl
@[simp] theorem State.setEchoIdx_echoMix (k : Nat) : (s.setEchoIdx k).echoMix = s.echoMix := rfl
@[simp] theorem State.setEchoIdx_echoFb (k : Nat) : (s.setEchoIdx k).echoFb = s.echoFb := rfl
@[simp] theorem State.setEchoIdx_echoMs (k : Nat) : (s.setEchoIdx k).echoMs = s.echoMs := rfl
@[simp] theorem State.setEchoIdx_echoLen (k : Nat) : (s.setEchoIdx k).echoLen = s.echoLen := rfl
@[simp] theorem State.setEchoIdx_echoIdx (k : Nat) : (s.setEchoIdx k).echoIdx = k := rfl
@[simp] theorem State.setEchoIdx_lcg (k : Nat) : (s.setEchoIdx k).lcg = s.lcg := rfl
@[simp] theorem State.setEchoIdx_ageCtr (k : Nat) : (s.setEchoIdx k).ageCtr = s.ageCtr := rfl
@[simp] theorem State.setEchoIdx_rom (k : Nat) : (s.setEchoIdx k).rom = s.rom := rfl
@[simp] theorem State.setEchoIdx_echoRam (k : Nat) : (s.setEchoIdx k).echoRam = s.echoRam := rfl
@[simp] theorem State.setEchoIdx_cfg (k : Nat) : (s.setEchoIdx k).cfg = s.cfg := rfl
@[simp] theorem State.setEchoIdx_ports (k : Nat) : (s.setEchoIdx k).ports = s.ports := rfl
@[simp] theorem State.setEchoIdx_out (k : Nat) : (s.setEchoIdx k).out = s.out := rfl

@[simp] theorem State.setPorts_voices (p : List PortEdge) : (s.setPorts p).voices = s.voices := rfl
@[simp] theorem State.setPorts_preset (p : List PortEdge) : (s.setPorts p).preset = s.preset := rfl
@[simp] theorem State.setPorts_masterGain (p : List PortEdge) : (s.setPorts p).masterGain = s.masterGain := rfl
@[simp] theorem State.setPorts_echoOn (p : List PortEdge) : (s.setPorts p).echoOn = s.echoOn := rfl
@[simp] theorem State.setPorts_echoMix (p : List PortEdge) : (s.setPorts p).echoMix = s.echoMix := rfl
@[simp] theorem State.setPorts_echoFb (p : List PortEdge) : (s.setPorts p).echoFb = s.echoFb := rfl
@[simp] theorem State.setPorts_echoMs (p : List PortEdge) : (s.setPorts p).echoMs = s.echoMs := rfl
@[simp] theorem State.setPorts_echoLen (p : List PortEdge) : (s.setPorts p).echoLen = s.echoLen := rfl
@[simp] theorem State.setPorts_echoIdx (p : List PortEdge) : (s.setPorts p).echoIdx = s.echoIdx := rfl
@[simp] theorem State.setPorts_lcg (p : List PortEdge) : (s.setPorts p).lcg = s.lcg := rfl
@[simp] theorem State.setPorts_ageCtr (p : List PortEdge) : (s.setPorts p).ageCtr = s.ageCtr := rfl
@[simp] theorem State.setPorts_rom (p : List PortEdge) : (s.setPorts p).rom = s.rom := rfl
@[simp] theorem State.setPorts_echoRam (p : List PortEdge) : (s.setPorts p).echoRam = s.echoRam := rfl
@[simp] theorem State.setPorts_cfg (p : List PortEdge) : (s.setPorts p).cfg = s.cfg := rfl
@[simp] theorem State.setPorts_ports (p : List PortEdge) : (s.setPorts p).ports = p := rfl
@[simp] theorem State.setPorts_out (p : List PortEdge) : (s.setPorts p).out = s.out := rfl

@[simp] theorem State.emit_voices (w : OutFrame) : (s.emit w).voices = s.voices := rfl
@[simp] theorem State.emit_preset (w : OutFrame) : (s.emit w).preset = s.preset := rfl
@[simp] theorem State.emit_masterGain (w : OutFrame) : (s.emit w).masterGain = s.masterGain := rfl
@[simp] theorem State.emit_echoOn (w : OutFrame) : (s.emit w).echoOn = s.echoOn := rfl
@[simp] theorem State.emit_echoMix (w : OutFrame) : (s.emit w).echoMix = s.echoMix := rfl
@[simp] theorem State.emit_echoFb (w : OutFrame) : (s.emit w).echoFb = s.echoFb := rfl
@[simp] theorem State.emit_echoMs (w : OutFrame) : (s.emit w).echoMs = s.echoMs := rfl
@[simp] theorem State.emit_echoLen (w : OutFrame) : (s.emit w).echoLen = s.echoLen := rfl
@[simp] theorem State.emit_echoIdx (w : OutFrame) : (s.emit w).echoIdx = s.echoIdx := rfl
@[simp] theorem State.emit_lcg (w : OutFrame) : (s.emit w).lcg = s.lcg := rfl
@[simp] theorem State.emit_ageCtr (w : OutFrame) : (s.emit w).ageCtr = s.ageCtr := rfl
@[simp] theorem State.emit_rom (w : OutFrame) : (s.emit w).rom = s.rom := rfl
@[simp] theorem State.emit_echoRam (w : OutFrame) : (s.emit w).echoRam = s.echoRam := rfl
@[simp] theorem State.emit_cfg (w : OutFrame) : (s.emit w).cfg = s.cfg := rfl
@[simp] theorem State.emit_ports (w : OutFrame) : (s.emit w).ports = s.ports := rfl
@[simp] theorem State.emit_out (w : OutFrame) : (s.emit w).out = s.out ++ [w] := rfl

@[simp] theorem State.writeEcho_voices (k : Nat) (x : F32) : (s.writeEcho k x).voices = s.voices := rfl
@[simp] theorem State.writeEcho_preset (k : Nat) (x : F32) : (s.writeEcho k x).preset = s.preset := rfl
@[simp] theorem State.writeEcho_masterGain (k : Nat) (x : F32) : (s.writeEcho k x).masterGain = s.masterGain := rfl
@[simp] theorem State.writeEcho_echoOn (k : Nat) (x : F32) : (s.writeEcho k x).echoOn = s.echoOn := rfl
@[simp] theorem State.writeEcho_echoMix (k : Nat) (x : F32) : (s.writeEcho k x).echoMix = s.echoMix := rfl
@[simp] theorem State.writeEcho_echoFb (k : Nat) (x : F32) : (s.writeEcho k x).echoFb = s.echoFb := rfl
@[simp] theorem State.writeEcho_echoMs (k : Nat) (x : F32) : (s.writeEcho k x).echoMs = s.echoMs := rfl
@[simp] theorem State.writeEcho_echoLen (k : Nat) (x : F32) : (s.writeEcho k x).echoLen = s.echoLen := rfl
@[simp] theorem State.writeEcho_echoIdx (k : Nat) (x : F32) : (s.writeEcho k x).echoIdx = s.echoIdx := rfl
@[simp] theorem State.writeEcho_lcg (k : Nat) (x : F32) : (s.writeEcho k x).lcg = s.lcg := rfl
@[simp] theorem State.writeEcho_ageCtr (k : Nat) (x : F32) : (s.writeEcho k x).ageCtr = s.ageCtr := rfl
@[simp] theorem State.writeEcho_rom (k : Nat) (x : F32) : (s.writeEcho k x).rom = s.rom := rfl
@[simp] theorem State.writeEcho_echoRam (k : Nat) (x : F32) : (s.writeEcho k x).echoRam = EchoRam.write s.echoRam k x := rfl
@[simp] theorem State.writeEcho_cfg (k : Nat) (x : F32) : (s.writeEcho k x).cfg = s.cfg := rfl
@[simp] theorem State.writeEcho_ports (k : Nat) (x : F32) : (s.writeEcho k x).ports = s.ports := rfl
@[simp] theorem State.writeEcho_out (k : Nat) (x : F32) : (s.writeEcho k x).out = s.out := rfl

@[simp] theorem State.rendered_voices (vs : Vector Voice 8) (l : BitVec 32) (m : EchoRam) (k : Nat) (o : List OutFrame) : (s.rendered vs l m k o).voices = vs := rfl
@[simp] theorem State.rendered_preset (vs : Vector Voice 8) (l : BitVec 32) (m : EchoRam) (k : Nat) (o : List OutFrame) : (s.rendered vs l m k o).preset = s.preset := rfl
@[simp] theorem State.rendered_masterGain (vs : Vector Voice 8) (l : BitVec 32) (m : EchoRam) (k : Nat) (o : List OutFrame) : (s.rendered vs l m k o).masterGain = s.masterGain := rfl
@[simp] theorem State.rendered_echoOn (vs : Vector Voice 8) (l : BitVec 32) (m : EchoRam) (k : Nat) (o : List OutFrame) : (s.rendered vs l m k o).echoOn = s.echoOn := rfl
@[simp] theorem State.rendered_echoMix (vs : Vector Voice 8) (l : BitVec 32) (m : EchoRam) (k : Nat) (o : List OutFrame) : (s.rendered vs l m k o).echoMix = s.echoMix := rfl
@[simp] theorem State.rendered_echoFb (vs : Vector Voice 8) (l : BitVec 32) (m : EchoRam) (k : Nat) (o : List OutFrame) : (s.rendered vs l m k o).echoFb = s.echoFb := rfl
@[simp] theorem State.rendered_echoMs (vs : Vector Voice 8) (l : BitVec 32) (m : EchoRam) (k : Nat) (o : List OutFrame) : (s.rendered vs l m k o).echoMs = s.echoMs := rfl
@[simp] theorem State.rendered_echoLen (vs : Vector Voice 8) (l : BitVec 32) (m : EchoRam) (k : Nat) (o : List OutFrame) : (s.rendered vs l m k o).echoLen = s.echoLen := rfl
@[simp] theorem State.rendered_echoIdx (vs : Vector Voice 8) (l : BitVec 32) (m : EchoRam) (k : Nat) (o : List OutFrame) : (s.rendered vs l m k o).echoIdx = k := rfl
@[simp] theorem State.rendered_lcg (vs : Vector Voice 8) (l : BitVec 32) (m : EchoRam) (k : Nat) (o : List OutFrame) : (s.rendered vs l m k o).lcg = l := rfl
@[simp] theorem State.rendered_ageCtr (vs : Vector Voice 8) (l : BitVec 32) (m : EchoRam) (k : Nat) (o : List OutFrame) : (s.rendered vs l m k o).ageCtr = s.ageCtr := rfl
@[simp] theorem State.rendered_rom (vs : Vector Voice 8) (l : BitVec 32) (m : EchoRam) (k : Nat) (o : List OutFrame) : (s.rendered vs l m k o).rom = s.rom := rfl
@[simp] theorem State.rendered_echoRam (vs : Vector Voice 8) (l : BitVec 32) (m : EchoRam) (k : Nat) (o : List OutFrame) : (s.rendered vs l m k o).echoRam = m := rfl
@[simp] theorem State.rendered_cfg (vs : Vector Voice 8) (l : BitVec 32) (m : EchoRam) (k : Nat) (o : List OutFrame) : (s.rendered vs l m k o).cfg = s.cfg := rfl
@[simp] theorem State.rendered_ports (vs : Vector Voice 8) (l : BitVec 32) (m : EchoRam) (k : Nat) (o : List OutFrame) : (s.rendered vs l m k o).ports = s.ports := rfl
@[simp] theorem State.rendered_out (vs : Vector Voice 8) (l : BitVec 32) (m : EchoRam) (k : Nat) (o : List OutFrame) : (s.rendered vs l m k o).out = s.out ++ o := rfl

@[simp] theorem State.afterReset_voices : (s.afterReset).voices = Vector.replicate 8 Voice.reset := rfl
@[simp] theorem State.afterReset_preset : (s.afterReset).preset = s.cfg.rstPreset := rfl
@[simp] theorem State.afterReset_masterGain : (s.afterReset).masterGain = s.cfg.rstMasterGain := rfl
@[simp] theorem State.afterReset_echoOn : (s.afterReset).echoOn = s.cfg.rstEchoOn := rfl
@[simp] theorem State.afterReset_echoMix : (s.afterReset).echoMix = s.cfg.rstEchoMix := rfl
@[simp] theorem State.afterReset_echoFb : (s.afterReset).echoFb = s.cfg.rstEchoFb := rfl
@[simp] theorem State.afterReset_echoMs : (s.afterReset).echoMs = s.cfg.rstEchoMs := rfl
@[simp] theorem State.afterReset_echoLen : (s.afterReset).echoLen = echoLenOf s.cfg s.cfg.rstEchoMs := rfl
@[simp] theorem State.afterReset_echoIdx : (s.afterReset).echoIdx = 0 := rfl
@[simp] theorem State.afterReset_lcg : (s.afterReset).lcg = s.cfg.lcgSeed := rfl
@[simp] theorem State.afterReset_ageCtr : (s.afterReset).ageCtr = 0#32 := rfl
@[simp] theorem State.afterReset_rom : (s.afterReset).rom = s.rom := rfl
@[simp] theorem State.afterReset_echoRam : (s.afterReset).echoRam = [] := rfl
@[simp] theorem State.afterReset_cfg : (s.afterReset).cfg = s.cfg := rfl
@[simp] theorem State.afterReset_ports : (s.afterReset).ports = s.ports := rfl
@[simp] theorem State.afterReset_out : (s.afterReset).out = s.out := rfl

@[simp] theorem setEchoTime_voices (ms : F32) : (setEchoTime ms s).voices = s.voices := rfl
@[simp] theorem setEchoTime_preset (ms : F32) : (setEchoTime ms s).preset = s.preset := rfl
@[simp] theorem setEchoTime_masterGain (ms : F32) : (setEchoTime ms s).masterGain = s.masterGain := rfl
@[simp] theorem setEchoTime_echoOn (ms : F32) : (setEchoTime ms s).echoOn = s.echoOn := rfl
@[simp] theorem setEchoTime_echoMix (ms : F32) : (setEchoTime ms s).echoMix = s.echoMix := rfl
@[simp] theorem setEchoTime_echoFb (ms : F32) : (setEchoTime ms s).echoFb = s.echoFb := rfl
@[simp] theorem setEchoTime_echoMs (ms : F32) : (setEchoTime ms s).echoMs = ms := rfl
@[simp] theorem setEchoTime_echoLen (ms : F32) : (setEchoTime ms s).echoLen = echoLenOf s.cfg ms := rfl
@[simp] theorem setEchoTime_echoIdx (ms : F32) : (setEchoTime ms s).echoIdx = (if echoLenOf s.cfg ms ≤ s.echoIdx then 0 else s.echoIdx) := rfl
@[simp] theorem setEchoTime_lcg (ms : F32) : (setEchoTime ms s).lcg = s.lcg := rfl
@[simp] theorem setEchoTime_ageCtr (ms : F32) : (setEchoTime ms s).ageCtr = s.ageCtr := rfl
@[simp] theorem setEchoTime_rom (ms : F32) : (setEchoTime ms s).rom = s.rom := rfl
@[simp] theorem setEchoTime_echoRam (ms : F32) : (setEchoTime ms s).echoRam = s.echoRam := rfl
@[simp] theorem setEchoTime_cfg (ms : F32) : (setEchoTime ms s).cfg = s.cfg := rfl
@[simp] theorem setEchoTime_ports (ms : F32) : (setEchoTime ms s).ports = s.ports := rfl
@[simp] theorem setEchoTime_out (ms : F32) : (setEchoTime ms s).out = s.out := rfl

@[simp] theorem Voice.toRelease_active (v : Voice) : (v.toRelease).active = v.active := rfl
@[simp] theorem Voice.toRelease_note (v : Voice) : (v.toRelease).note = v.note := rfl
@[simp] theorem Voice.toRelease_age (v : Voice) : (v.toRelease).age = v.age := rfl
@[simp] theorem Voice.toRelease_phase (v : Voice) : (v.toRelease).phase = v.phase := rfl
@[simp] theorem Voice.toRelease_inc (v : Voice) : (v.toRelease).inc = v.inc := rfl
@[simp] theorem Voice.toRelease_stage (v : Voice) : (v.toRelease).stage = .release := rfl
@[simp] theorem Voice.toRelease_level (v : Voice) : (v.toRelease).level = v.level := rfl
@[simp] theorem Voice.toRelease_velGain (v : Voice) : (v.toRelease).velGain = v.velGain := rfl
@[simp] theorem Voice.toRelease_transient (v : Voice) : (v.toRelease).transient = v.transient := rfl
@[simp] theorem Voice.toRelease_filt (v : Voice) : (v.toRelease).filt = v.filt := rfl

@[simp] theorem Voice.toOff_active (v : Voice) : (v.toOff).active = false := rfl
@[simp] theorem Voice.toOff_note (v : Voice) : (v.toOff).note = v.note := rfl
@[simp] theorem Voice.toOff_age (v : Voice) : (v.toOff).age = v.age := rfl
@[simp] theorem Voice.toOff_phase (v : Voice) : (v.toOff).phase = v.phase := rfl
@[simp] theorem Voice.toOff_inc (v : Voice) : (v.toOff).inc = v.inc := rfl
@[simp] theorem Voice.toOff_stage (v : Voice) : (v.toOff).stage = .off := rfl
@[simp] theorem Voice.toOff_level (v : Voice) : (v.toOff).level = Lit.zero := rfl
@[simp] theorem Voice.toOff_velGain (v : Voice) : (v.toOff).velGain = v.velGain := rfl
@[simp] theorem Voice.toOff_transient (v : Voice) : (v.toOff).transient = v.transient := rfl
@[simp] theorem Voice.toOff_filt (v : Voice) : (v.toOff).filt = v.filt := rfl

@[simp] theorem Voice.toStage_active (v : Voice) (st : Stage) (l : F32) : (v.toStage st l).active = v.active := rfl
@[simp] theorem Voice.toStage_note (v : Voice) (st : Stage) (l : F32) : (v.toStage st l).note = v.note := rfl
@[simp] theorem Voice.toStage_age (v : Voice) (st : Stage) (l : F32) : (v.toStage st l).age = v.age := rfl
@[simp] theorem Voice.toStage_phase (v : Voice) (st : Stage) (l : F32) : (v.toStage st l).phase = v.phase := rfl
@[simp] theorem Voice.toStage_inc (v : Voice) (st : Stage) (l : F32) : (v.toStage st l).inc = v.inc := rfl
@[simp] theorem Voice.toStage_stage (v : Voice) (st : Stage) (l : F32) : (v.toStage st l).stage = st := rfl
@[simp] theorem Voice.toStage_level (v : Voice) (st : Stage) (l : F32) : (v.toStage st l).level = l := rfl
@[simp] theorem Voice.toStage_velGain (v : Voice) (st : Stage) (l : F32) : (v.toStage st l).velGain = v.velGain := rfl
@[simp] theorem Voice.toStage_transient (v : Voice) (st : Stage) (l : F32) : (v.toStage st l).transient = v.transient := rfl
@[simp] theorem Voice.toStage_filt (v : Voice) (st : Stage) (l : F32) : (v.toStage st l).filt = v.filt := rfl

@[simp] theorem Voice.toLevel_active (v : Voice) (l : F32) : (v.toLevel l).active = v.active := rfl
@[simp] theorem Voice.toLevel_note (v : Voice) (l : F32) : (v.toLevel l).note = v.note := rfl
@[simp] theorem Voice.toLevel_age (v : Voice) (l : F32) : (v.toLevel l).age = v.age := rfl
@[simp] theorem Voice.toLevel_phase (v : Voice) (l : F32) : (v.toLevel l).phase = v.phase := rfl
@[simp] theorem Voice.toLevel_inc (v : Voice) (l : F32) : (v.toLevel l).inc = v.inc := rfl
@[simp] theorem Voice.toLevel_stage (v : Voice) (l : F32) : (v.toLevel l).stage = v.stage := rfl
@[simp] theorem Voice.toLevel_level (v : Voice) (l : F32) : (v.toLevel l).level = l := rfl
@[simp] theorem Voice.toLevel_velGain (v : Voice) (l : F32) : (v.toLevel l).velGain = v.velGain := rfl
@[simp] theorem Voice.toLevel_transient (v : Voice) (l : F32) : (v.toLevel l).transient = v.transient := rfl
@[simp] theorem Voice.toLevel_filt (v : Voice) (l : F32) : (v.toLevel l).filt = v.filt := rfl

@[simp] theorem phaseAdvance_active (v : Voice) : (phaseAdvance v).active = v.active := rfl
@[simp] theorem phaseAdvance_note (v : Voice) : (phaseAdvance v).note = v.note := rfl
@[simp] theorem phaseAdvance_age (v : Voice) : (phaseAdvance v).age = v.age := rfl
@[simp] theorem phaseAdvance_phase (v : Voice) : (phaseAdvance v).phase = frac (fadd v.phase v.inc) := rfl
@[simp] theorem phaseAdvance_inc (v : Voice) : (phaseAdvance v).inc = v.inc := rfl
@[simp] theorem phaseAdvance_stage (v : Voice) : (phaseAdvance v).stage = v.stage := rfl
@[simp] theorem phaseAdvance_level (v : Voice) : (phaseAdvance v).level = v.level := rfl
@[simp] theorem phaseAdvance_velGain (v : Voice) : (phaseAdvance v).velGain = v.velGain := rfl
@[simp] theorem phaseAdvance_transient (v : Voice) : (phaseAdvance v).transient = v.transient := rfl
@[simp] theorem phaseAdvance_filt (v : Voice) : (phaseAdvance v).filt = v.filt := rfl

end Sys2Proof.Machine
end

