-- ==== Sys2Proof/Laws/Ops.lean ====
section
/-! SUPPORT. One lemma per shared operation that says what it can do: the voice file, sequencing, the voice sum, one
frame, a run of frames. -/

namespace Sys2Proof.Machine

/-! The voice file. -/

@[simp] theorem State.voice_setVoice_self (s : State) (i : Fin 8) (v : Voice) : (s.setVoice i v).voice i = v := by
  simp [State.voice]

theorem State.voice_setVoice_ne (s : State) {i j : Fin 8} (v : Voice) (h : i ≠ j) :
    (s.setVoice i v).voice j = s.voice j := by
  have : (i : Nat) ≠ (j : Nat) := fun e => h (Fin.ext e)
  simp [State.voice, this]

theorem State.voice_setVoice (s : State) (i j : Fin 8) (v : Voice) :
    (s.setVoice i v).voice j = if i = j then v else s.voice j := by
  split_ifs with h
  · subst h; simp
  · exact State.voice_setVoice_ne s v h

@[simp] theorem State.voice_mapVoices (s : State) (f : Voice → Voice) (i : Fin 8) :
    (s.mapVoices f).voice i = f (s.voice i) := by
  simp [State.voice]

@[simp] theorem State.voice_setLcg (s : State) (x : BitVec 32) (i : Fin 8) : (s.setLcg x).voice i = s.voice i := rfl

@[simp] theorem State.voice_setAgeCtr (s : State) (x : BitVec 32) (i : Fin 8) :
    (s.setAgeCtr x).voice i = s.voice i := rfl

@[simp] theorem State.voice_setPorts (s : State) (p : List PortEdge) (i : Fin 8) :
    (s.setPorts p).voice i = s.voice i := rfl

@[simp] theorem State.voice_emit (s : State) (w : OutFrame) (i : Fin 8) : (s.emit w).voice i = s.voice i := rfl

@[simp] theorem State.voice_writeEcho (s : State) (k : Nat) (x : F32) (i : Fin 8) :
    (s.writeEcho k x).voice i = s.voice i := rfl

@[simp] theorem State.voice_setEchoIdx (s : State) (k : Nat) (i : Fin 8) : (s.setEchoIdx k).voice i = s.voice i := rfl

@[simp] theorem State.voice_afterReset (s : State) (i : Fin 8) : s.afterReset.voice i = Voice.reset := by
  simp [State.voice]

/-- Two voice files with the same slots are equal. -/
theorem voices_ext {a b : Vector Voice 8} (h : ∀ i : Fin 8, a[i] = b[i]) : a = b :=
  Vector.ext fun i hi => h ⟨i, hi⟩

/-- Every slot is in the list of slots. -/
@[simp] theorem mem_slots (i : Fin 8) : i ∈ slots := by
  revert i; decide

/-! Sequencing. -/

@[simp] theorem andThen_next (s : State) (f : State → Host.Outcome State Fault Refusal) :
    andThen (.next s) f = f s := rfl

/-- A sequence answers a next state exactly when both steps do. -/
theorem andThen_eq_next {o : Host.Outcome State Fault Refusal} {f : State → Host.Outcome State Fault Refusal}
    {t : State} (h : andThen o f = .next t) : ∃ u, o = .next u ∧ f u = .next t := by
  cases o with
  | next u => exact ⟨u, rfl, h⟩
  | fault r => cases h
  | refused r => cases h

/-! The voice sum: it writes the voice file and the noise generator, and nothing else. -/

/-- What `addVoice` can write. -/
theorem addVoice_state (p : Sum) (i : Fin 8) :
    ∃ vs l, (addVoice p i).state = { p.state with voices := vs, lcg := l } := ⟨_, _, rfl⟩

theorem foldl_addVoice_state (l : List (Fin 8)) (p : Sum) :
    ∃ vs x, (l.foldl addVoice p).state = { p.state with voices := vs, lcg := x } := by
  induction l generalizing p with
  | nil => exact ⟨p.state.voices, p.state.lcg, rfl⟩
  | cons i l ih =>
    obtain ⟨vs, x, h⟩ := ih (addVoice p i)
    exact ⟨vs, x, h.trans rfl⟩

/-- What `VoiceSum` can write. -/
theorem voiceSum_state (s : State) : ∃ vs x, (voiceSum s).state = { s with voices := vs, lcg := x } :=
  foldl_addVoice_state slots _

/-- A property of the running sum that every voice keeps holds after `VoiceSum`. -/
theorem voiceSum_induction {P : Sum → Prop} (s : State) (h0 : P { sum := Lit.zero, state := s })
    (h : ∀ p i, P p → P (addVoice p i)) : P (voiceSum s) := by
  have : ∀ (l : List (Fin 8)) (p : Sum), P p → P (l.foldl addVoice p) := by
    intro l
    induction l with
    | nil => exact fun p hp => hp
    | cons i l ih => exact fun p hp => ih _ (h p i hp)
  exact this slots _ h0

/-- A turn of another slot leaves a voice alone; its own turn runs its frame (R187). -/
theorem addVoice_voice (p : Sum) (i j : Fin 8) :
    (addVoice p j).state.voice i =
      if j = i then (voiceFrame p.state.cfg p.state.rom p.state.preset (p.state.voice j) p.state.lcg).voice
      else p.state.voice i := by
  simp [addVoice, State.voice_setVoice]

/-- `VoiceSum` runs the frame of every slot exactly once, from the voice it held before (R206). -/
theorem voiceSum_voice (s : State) (i : Fin 8) :
    ∃ lcg, (voiceSum s).state.voice i = (voiceFrame s.cfg s.rom s.preset (s.voice i) lcg).voice := by
  have key : ∀ (l : List (Fin 8)) (p : Sum), l.Nodup →
      (i ∈ l → ∃ lcg, (l.foldl addVoice p).state.voice i =
        (voiceFrame p.state.cfg p.state.rom p.state.preset (p.state.voice i) lcg).voice) ∧
      (i ∉ l → (l.foldl addVoice p).state.voice i = p.state.voice i) := by
    intro l
    induction l with
    | nil => simp
    | cons k l ih =>
      intro p hn
      obtain ⟨hk, hl⟩ := List.nodup_cons.mp hn
      obtain ⟨hin, hout⟩ := ih (addVoice p k) hl
      rw [List.foldl_cons]
      refine ⟨fun hi => ?_, fun hi => ?_⟩
      · by_cases hik : k = i
        · subst hik
          exact ⟨p.state.lcg, by rw [hout hk, addVoice_voice, if_pos rfl]⟩
        · obtain ⟨lcg, h⟩ := hin (List.mem_of_ne_of_mem (Ne.symm hik) hi)
          rw [addVoice_voice, if_neg hik] at h
          exact ⟨lcg, h⟩
      · rw [List.mem_cons, not_or] at hi
        rw [hout hi.2, addVoice_voice, if_neg (Ne.symm hi.1)]
  exact (key slots { sum := Lit.zero, state := s } (by decide)).1 (mem_slots i)

/-! One voice in one frame. -/

/-- What `VoiceFrame` can do (R187): nothing, an envelope step that ends the release, or a sounded frame. -/
theorem voiceFrame_cases (c : Config) (rom : List F32) (preset : BitVec 2) (v : Voice) (lcg : BitVec 32) :
    (v.active = false ∧ voiceFrame c rom preset v lcg = { voice := v, lcg := lcg, sample := none }) ∨
      (v.active = true ∧ (envStep c v).active = false ∧
        voiceFrame c rom preset v lcg = { voice := envStep c v, lcg := lcg, sample := none }) ∨
      (v.active = true ∧ (envStep c v).active = true ∧
        voiceFrame c rom preset v lcg = soundVoice c rom preset (envStep c v) lcg) := by
  unfold voiceFrame
  cases hv : v.active <;> cases he : (envStep c v).active <;> simp

/-- What an envelope step can do (R120): stay, move along a ramp, reach the next stage, or go Off. -/
theorem envStep_cases (c : Config) (v : Voice) :
    envStep c v = v ∨ (v.stage = .attack ∧ envStep c v = v.toStage .decay Lit.one) ∨
      (v.stage = .attack ∧ snaps c c.attackS = false ∧ fge (fadd v.level (attStep c)) Lit.one = false ∧
        envStep c v = v.toLevel (fadd v.level (attStep c))) ∨
      (v.stage = .decay ∧ envStep c v = v.toStage .sustain c.sustainLevel) ∨
      (v.stage = .decay ∧ snaps c c.decayS = false ∧ fle (fsub v.level (decStep c)) c.sustainLevel = false ∧
        envStep c v = v.toLevel (fsub v.level (decStep c))) ∨
      (v.stage = .release ∧ envStep c v = v.toOff) ∨
      (v.stage = .release ∧ snaps c c.releaseS = false ∧ fle (fsub v.level (relStep c)) Lit.zero = false ∧
        envStep c v = v.toLevel (fsub v.level (relStep c))) := by
  unfold envStep envAttack envDecay envRelease envSustain
  cases hs : v.stage <;> simp <;> split_ifs <;> simp_all

/-- A raw sample writes at most the transient, the filter memory and the noise generator (R177, R186). -/
theorem rawSample_voice (c : Config) (rom : List F32) (preset : BitVec 2) (v : Voice) (lcg : BitVec 32) :
    ∃ t f, (rawSample c rom preset v lcg).voice = { v with transient := t, filt := f } := by
  unfold rawSample
  split
  · exact ⟨v.transient, v.filt, rfl⟩
  · exact ⟨v.transient, v.filt, rfl⟩
  · exact ⟨_, v.filt, rfl⟩
  · exact ⟨v.transient, _, rfl⟩

/-- A sounded frame keeps the slot's note, age, increment, stage, level and gain, and its active bit (R187). -/
theorem soundVoice_voice (c : Config) (rom : List F32) (preset : BitVec 2) (v : Voice) (lcg : BitVec 32) :
    ∃ t f, (soundVoice c rom preset v lcg).voice =
      { v with transient := t, filt := f, phase := frac (fadd v.phase v.inc) } := by
  obtain ⟨t, f, h⟩ := rawSample_voice c rom preset v lcg
  refine ⟨t, f, ?_⟩
  simp [soundVoice, h, phaseAdvance]

/-! One frame and a run of frames. -/

/-- What the echo step can write: one cell and the index (R195). -/
theorem echoNext_state (s : State) (x : F32) :
    ∃ m k, echoNext s x = { s with echoRam := m, echoIdx := k } := by
  unfold echoNext
  split
  · exact ⟨_, _, rfl⟩
  · exact ⟨s.echoRam, s.echoIdx, rfl⟩

/-- A frame answers a next state exactly when the echo cell it addresses exists. -/
theorem frame_eq_next {last : Bool} {s t : State} (h : frame last s = .next t) :
    echoReachable (voiceSum s).state = true ∧ t = finishFrame last (voiceSum s) := by
  unfold frame at h
  split at h
  · exact ⟨by assumption, by injection h with h; exact h.symm⟩
  · cases h

/-- What a frame can write (R205). -/
theorem frame_state {last : Bool} {s t : State} (h : frame last s = .next t) :
    ∃ vs l m k w, t = s.rendered vs l m k [{ data := w, last := last }] := by
  obtain ⟨-, rfl⟩ := frame_eq_next h
  obtain ⟨vs, l, hv⟩ := voiceSum_state s
  obtain ⟨m, k, he⟩ := echoNext_state (voiceSum s).state (mixed (voiceSum s).state (voiceSum s).sum)
  refine ⟨vs, l, m, k, frameWord (voiceSum s).state (mixed (voiceSum s).state (voiceSum s).sum), ?_⟩
  unfold finishFrame
  rw [he, hv]
  rfl

/-- A run of frames is a frame and the run of the rest. -/
theorem runFrames_succ_eq_next {n left : Nat} {s t : State} (h : runFrames (n + 1) left s = .next t) :
    ∃ u, frame (left == 1) s = .next u ∧ runFrames n (left - 1) u = .next t := andThen_eq_next h

/-- A property that every frame keeps is kept by a run of frames. -/
theorem runFrames_induction {P : State → Prop} (h : ∀ last s t, frame last s = .next t → P s → P t) :
    ∀ {n left : Nat} {s t : State}, runFrames n left s = .next t → P s → P t := by
  intro n
  induction n with
  | zero => intro left s t hr hp; injection hr with hr; exact hr ▸ hp
  | succ n ih =>
    intro left s t hr hp
    obtain ⟨u, hu, ht⟩ := runFrames_succ_eq_next hr
    exact ih ht (h _ _ _ hu hp)

/-- A run of `m + n` frames is a run of `m` and then one of `n`. -/
theorem runFrames_add (m n left : Nat) (s : State) :
    runFrames (m + n) left s = andThen (runFrames m left s) (runFrames n (left - m)) := by
  induction m generalizing left s with
  | zero => simp [runFrames]
  | succ m ih =>
    rw [Nat.succ_add]
    simp only [runFrames]
    cases hf : frame (left == 1) s with
    | next u => rw [andThen_next, andThen_next, ih, Nat.sub_sub, Nat.add_comm 1 m]
    | fault r => rfl
    | refused r => rfl

end Sys2Proof.Machine
end

