-- ==== Sys2Proof/Laws/PerInstr.lean ====
section
/-! SUPPORT. Facts stated once per instruction: the opcode byte of its canonical word. -/

namespace Sys2Proof.Laws.OpcodeByte

open Sys2Proof.Machine

/-- `op` of rule R84 for a command; nothing for a render request. -/
def opcodeOf : Instr → Option (BitVec 8)
  | .nop => some 0x00#8
  | .noteOn _ _ => some 0x01#8
  | .noteOff _ => some 0x02#8
  | .allNotesOff => some 0x03#8
  | .setPreset _ => some 0x10#8
  | .setMasterGain _ => some 0x11#8
  | .setEchoOn _ => some 0x12#8
  | .setEchoMix _ => some 0x13#8
  | .setEchoFb _ => some 0x14#8
  | .setEchoMs _ => some 0x15#8
  | .render => none
  | .renderSkip => none

theorem opField_commandWord (op : BitVec 8) (arg : BitVec 32) : opField (commandWord op arg) = op := by
  simp only [opField, commandWord]; exact BitVec.extractLsb'_append_eq_left

theorem argField_commandWord (op : BitVec 8) (arg : BitVec 32) : argField (commandWord op arg) = arg := by
  simp only [argField, commandWord]; exact BitVec.extractLsb'_append_eq_right

/-- A command's canonical word carries its opcode in bits 39:32; a render request is no command word. -/
def Statement (i : Instr) : Prop :=
  match encode i with
  | .cmd w => opcodeOf i = some (opField w)
  | .request _ => opcodeOf i = none

theorem nop : Statement .nop := by simp [Statement, encode, opcodeOf, opField_commandWord]
theorem noteOn (note vel : BitVec 7) : Statement (.noteOn note vel) := by
  simp [Statement, encode, opcodeOf, opField_commandWord]
theorem noteOff (note : BitVec 7) : Statement (.noteOff note) := by
  simp [Statement, encode, opcodeOf, opField_commandWord]
theorem allNotesOff : Statement .allNotesOff := by simp [Statement, encode, opcodeOf, opField_commandWord]
theorem setPreset (val : BitVec 8) : Statement (.setPreset val) := by
  simp [Statement, encode, opcodeOf, opField_commandWord]
theorem setMasterGain (f : F32) : Statement (.setMasterGain f) := by
  simp [Statement, encode, opcodeOf, opField_commandWord]
theorem setEchoOn (on : Bool) : Statement (.setEchoOn on) := by
  simp [Statement, encode, opcodeOf, opField_commandWord]
theorem setEchoMix (f : F32) : Statement (.setEchoMix f) := by
  simp [Statement, encode, opcodeOf, opField_commandWord]
theorem setEchoFb (f : F32) : Statement (.setEchoFb f) := by
  simp [Statement, encode, opcodeOf, opField_commandWord]
theorem setEchoMs (f : F32) : Statement (.setEchoMs f) := by
  simp [Statement, encode, opcodeOf, opField_commandWord]
theorem render : Statement .render := by simp [Statement, encode, opcodeOf]
theorem renderSkip : Statement .renderSkip := by simp [Statement, encode, opcodeOf]

end Sys2Proof.Laws.OpcodeByte
end

