-- ==== Sys2Proof/Laws/Step.lean ====
section
/-! SUPPORT. What an instruction and a step can answer, one lemma each. -/

namespace Sys2Proof.Machine

/-- A word presented alone is the event accepted (R99, R100). -/
@[simp] theorem accept_ofWord (w : PortWord) (rest : List PortEdge) :
    accept (PortEdge.ofWord w :: rest) = (.word w, rest) := by
  cases w <;> rfl

/-- NOTE_ON answers a next state exactly when the age counter is not exhausted (R140, R253). -/
theorem execNoteOn_eq_next {note vel : BitVec 7} {s t : State} (h : execNoteOn note vel s = .next t) :
    s.ageCtr ≠ 0xFFFFFFFF#32 ∧ t = startNote note vel s := by
  unfold execNoteOn at h
  split at h
  · cases h
  · exact ⟨by assumption, by injection h with h; exact h.symm⟩

/-- What a run of frames can write (R205, R211): the voice file, the noise generator, the echo RAM and its index, and
the words it sends, one a frame. -/
theorem runFrames_state : ∀ {n left : Nat} {s t : State}, runFrames n left s = .next t →
    ∃ vs l m k o, t = s.rendered vs l m k o ∧ o.length = n := by
  intro n
  induction n with
  | zero =>
    intro left s t h
    injection h with h
    exact ⟨s.voices, s.lcg, s.echoRam, s.echoIdx, [], by simp [State.rendered, h], rfl⟩
  | succ n ih =>
    intro left s t h
    obtain ⟨u, hu, ht⟩ := runFrames_succ_eq_next h
    obtain ⟨vs, l, m, k, w, rfl⟩ := frame_state hu
    obtain ⟨vs', l', m', k', o, rfl, ho⟩ := ih ht
    exact ⟨vs', l', m', k', { data := w, last := left == 1 } :: o, by simp [State.rendered], by simp [ho]⟩

/-- What an event can do (R6): nothing, the reset, an instruction, or a render cut short by the reset. -/
theorem applyEvent_eq_next {e : Event} {s t : State} (h : applyEvent e s = .next t) :
    t = s ∨ t = s.afterReset ∨ (∃ i, exec i s = .next t) ∨
      ∃ k u, runFrames (min k s.cfg.blockSize) s.cfg.blockSize s = .next u ∧ t = u.afterReset := by
  cases e with
  | idle => injection h with h; exact Or.inl h.symm
  | reset => injection h with h; exact Or.inr (Or.inl h.symm)
  | word w =>
    simp only [applyEvent, runWord] at h
    split at h
    · exact Or.inr (Or.inr (Or.inl ⟨_, h⟩))
    · injection h with h; exact Or.inl h.symm
  | cutRender k =>
    obtain ⟨u, hu, ht⟩ := andThen_eq_next h
    injection ht with ht
    exact Or.inr (Or.inr (Or.inr ⟨k, u, hu, ht.symm⟩))

/-- What a step can do: an event on the state that no longer presents what it accepted. -/
theorem step_eq_next {s t : State} (h : step s = .next t) :
    ∃ p, t = s.setPorts p ∨ t = (s.setPorts p).afterReset ∨ (∃ i, exec i (s.setPorts p) = .next t) ∨
      ∃ k u, runFrames (min k s.cfg.blockSize) s.cfg.blockSize (s.setPorts p) = .next u ∧ t = u.afterReset :=
  ⟨(accept s.ports).2, applyEvent_eq_next (s := s.setPorts (accept s.ports).2) h⟩

/-- The instructions by what they can write: one field, the voice file, or a run of frames. -/
theorem exec_eq_next {i : Instr} {s t : State} (h : exec i s = .next t) :
    t = s ∨ (∃ note vel, i = .noteOn note vel ∧ s.ageCtr ≠ 0xFFFFFFFF#32 ∧ t = startNote note vel s) ∨
      (∃ note, i = .noteOff note ∧ t = s.mapVoices (releasedVoice note)) ∨
      (i = .allNotesOff ∧ t = s.mapVoices Voice.toOff) ∨
      (∃ val, i = .setPreset val ∧ t = { s with preset := clampPreset val }) ∨
      (∃ f, i = .setMasterGain f ∧ t = { s with masterGain := clampUnit f }) ∨
      (∃ on, i = .setEchoOn on ∧ t = { s with echoOn := on }) ∨
      (∃ f, i = .setEchoMix f ∧ t = { s with echoMix := clampUnit f }) ∨
      (∃ f, i = .setEchoFb f ∧ t = { s with echoFb := clampFb f }) ∨
      (∃ f, i = .setEchoMs f ∧ t = setEchoTime (clampMs f) s) ∨
      (i = .render ∧ runFrames s.cfg.blockSize s.cfg.blockSize s = .next t) := by
  cases i with
  | noteOn note vel =>
    obtain ⟨hc, ht⟩ := execNoteOn_eq_next h
    exact Or.inr (Or.inl ⟨note, vel, rfl, hc, ht⟩)
  | render => simp only [exec, execRender] at h; simp [h]
  | nop => injection h with h; exact Or.inl h.symm
  | renderSkip => injection h with h; exact Or.inl h.symm
  | noteOff note => injection h with h; simp [← h]
  | allNotesOff => injection h with h; simp [← h]
  | setPreset val => injection h with h; simp [← h]
  | setMasterGain f => injection h with h; simp [← h]
  | setEchoOn on => injection h with h; simp [← h]
  | setEchoMix f => injection h with h; simp [← h]
  | setEchoFb f => injection h with h; simp [← h]
  | setEchoMs f => injection h with h; simp [← h]

/-- The reset memory is canonical. -/
theorem reset_echoRam_wf : EchoRam.wf State.reset.echoRam = true := rfl

/-- The echo step keeps the canonical form (R195). -/
theorem echoNext_wf {s : State} (x : F32) (h : EchoRam.wf s.echoRam = true) :
    EchoRam.wf (echoNext s x).echoRam = true := by
  unfold echoNext
  split
  · exact EchoRam.wf_write _ _ h
  · exact h

end Sys2Proof.Machine
end

