-- ==== Sys2Proof/Tests/Slice0.lean ====
section
/-! SUPPORT. Tests of the model against the words, tables and vectors of the spec, the smoke tests of the build check,
and for every statement with hypotheses a witness that meets them. -/

namespace Sys2Proof.Tests

open Sys2Proof.Machine

set_option maxRecDepth 20000
set_option Elab.async false

/-! Helpers. -/

/-- Configuration TC1 of spec/95_test_vectors.md, its parameters and the defaults of rule R8. -/
def tc1 : Config where
  sampleRate := 56320
  blockSize := 4
  echoCap := 36000
  attackS := 0#32
  decayS := 0#32
  releaseS := 0#32
  sustainLevel := 0x3F800000#32
  envEps := 0x38D1B717#32
  padAlpha := 0x3E000000#32
  lcgSeed := 0#32
  wetTap := .y
  rstPreset := 0#2
  rstMasterGain := 0#32
  rstEchoOn := false
  rstEchoMix := 0#32
  rstEchoFb := 0#32
  rstEchoMs := 0x41F00000#32

/-- Configuration TC3: 110 frames a second, so the echo length at 30 ms is 3. -/
def tc3 : Config := { tc1 with sampleRate := 110, blockSize := 2 }

/-- The reference table of four entries (`SINE_BITS = 2`). -/
def rom4 : List F32 := [0#32, 0x3F800000#32, 0#32, 0xBF800000#32]

/-- The state after reset of a build, with the four-entry table. -/
def fresh (c : Config) : State := State.resetOf c rom4

/-- The next state, if there is one. -/
def nextOf : Host.Outcome State Fault Refusal → Option State
  | .next s => some s
  | .fault _ => none
  | .refused _ => none

/-- One field of the state after an instruction. -/
def after {α : Type} (i : Instr) (s : State) (f : State → α) : Option α := (nextOf (exec i s)).map f

/-- One field of the state after some instructions. -/
def afterAll {α : Type} (is : List Instr) (s : State) (f : State → α) : Option α :=
  (is.foldl (fun o i => o.bind (fun t => nextOf (exec i t))) (some s)).map f

/-- The samples sent. -/
def samples (s : State) : List Int := s.out.map (fun f => (f.data.extractLsb' 0 16).toInt)

/-- A voice in Sustain at full level under TC1. -/
def sounding : Voice :=
  { active := true, note := 60#7, age := 0#32, phase := 0x3F7FFFFF#32, inc := 0x3E000000#32, stage := .sustain,
    level := 0x3F800000#32, velGain := 0x3F800000#32, transient := 0x3F800000#32, filt := 0#32 }

/-- A small busy state: one voice sounding, the echo on at its last index, one cell written. -/
def busy : State :=
  { fresh tc3 with
    voices := (Vector.replicate 8 Voice.reset).set 0 sounding
    masterGain := 0x3F800000#32
    echoOn := true
    echoMix := 0x3F000000#32
    echoFb := 0x3F000000#32
    echoIdx := 2
    ageCtr := 1#32
    echoRam := [(0, 0x3F800000#32)]
    ports := [PortEdge.ofWord (.request true)] }

/-- The busy state with all eight slots sounding, ages 1 to 8. -/
def full : State :=
  { busy with
    voices := Vector.ofFn (fun i : Fin 8 => { sounding with age := BitVec.ofNat 32 (i.val + 1) })
    ageCtr := 9#32 }

/-! Smoke tests of the build check: a legal build passes, each ill-formed one is refused (R8, R121). -/

theorem test_wf_tc1 : tc1.wf = true := by decide +kernel
theorem test_wf_refuses_rate_zero : Config.wf { tc1 with sampleRate := 0 } = false := by decide +kernel
theorem test_wf_refuses_rate_too_large : Config.wf { tc1 with sampleRate := 2 ^ 24 } = false := by decide +kernel
theorem test_wf_refuses_empty_block : Config.wf { tc1 with blockSize := 0 } = false := by decide +kernel
theorem test_wf_refuses_one_echo_cell : Config.wf { tc1 with echoCap := 1 } = false := by decide +kernel
theorem test_wf_refuses_negative_attack : Config.wf { tc1 with attackS := 0xBF800000#32 } = false := by decide +kernel
theorem test_wf_refuses_infinite_decay : Config.wf { tc1 with decayS := 0x7F800000#32 } = false := by decide +kernel
theorem test_wf_refuses_nan_release : Config.wf { tc1 with releaseS := 0x7FC00000#32 } = false := by decide +kernel
theorem test_wf_refuses_sustain_above_one : Config.wf { tc1 with sustainLevel := 0x3F800001#32 } = false := by
  decide +kernel
theorem test_wf_refuses_zero_epsilon : Config.wf { tc1 with envEps := 0#32 } = false := by decide +kernel
theorem test_wf_refuses_pad_one : Config.wf { tc1 with padAlpha := 0x3F800000#32 } = false := by decide +kernel
theorem test_wf_refuses_reset_gain : Config.wf { tc1 with rstMasterGain := 0x40000000#32 } = false := by decide +kernel
theorem test_wf_refuses_reset_mix : Config.wf { tc1 with rstEchoMix := 0xBF800000#32 } = false := by decide +kernel
theorem test_wf_refuses_reset_feedback : Config.wf { tc1 with rstEchoFb := 0x3F800000#32 } = false := by decide +kernel
theorem test_wf_refuses_reset_time : Config.wf { tc1 with rstEchoMs := 0x41E80000#32 } = false := by decide +kernel

/-! Decoding: words written out from the tables of R92 and of section T4 of spec/95_test_vectors.md. -/

theorem test_decode_nop : decodeTableWord 40 0x00FFFFFFFF = some .nop := by decide
theorem test_decode_note_on : decodeTableWord 40 0x010000643C = some (.noteOn 60#7 100#7) := by decide
theorem test_decode_note_on_ignored : decodeTableWord 40 0x0100008080 = some (.noteOn 0#7 0#7) := by decide
theorem test_decode_note_off : decodeTableWord 40 0x02000000C5 = some (.noteOff 69#7) := by decide
theorem test_decode_all_notes_off : decodeTableWord 40 0x0312345678 = some .allNotesOff := by decide
theorem test_decode_set_preset : decodeTableWord 40 0x1000000104 = some (.setPreset 4#8) := by decide
theorem test_decode_set_master_gain : decodeTableWord 40 0x113F4CCCCD = some (.setMasterGain 0x3F4CCCCD#32) := by decide
theorem test_decode_set_echo_on : decodeTableWord 40 0x1200000003 = some (.setEchoOn true) := by decide
theorem test_decode_set_echo_on_zero : decodeTableWord 40 0x12FFFFFFFE = some (.setEchoOn false) := by decide
theorem test_decode_set_echo_mix : decodeTableWord 40 0x133F000000 = some (.setEchoMix 0x3F000000#32) := by decide
theorem test_decode_set_echo_fb : decodeTableWord 40 0x143F666666 = some (.setEchoFb 0x3F666666#32) := by decide
theorem test_decode_set_echo_ms : decodeTableWord 40 0x1542C80000 = some (.setEchoMs 0x42C80000#32) := by decide
theorem test_decode_render : decodeTableWord 8 1 = some .render := by decide
theorem test_decode_render_skip : decodeTableWord 8 0 = some .renderSkip := by decide
theorem test_decode_reserved_first : decode (.cmd 0x0400000000#40) = .reserved 0x04#8 := by decide
theorem test_decode_reserved_after_setters : decode (.cmd 0x1600000000#40) = .reserved 0x16#8 := by decide
theorem test_decode_reserved_last : decode (.cmd 0xFF00000000#40) = .reserved 0xFF#8 := by decide

/-! Arithmetic and tables: R15, R17, section T1, T2, T3 and T9. -/

theorem test_ftrunc_toward_zero : ftrunc 0xC039999A#32 = -2 ∧ ftrunc 0x4039999A#32 = 2 := by decide +kernel
theorem test_sin_entries : sinRef 10 1 = 0x3BC90F88#32 ∧ sinRef 10 192 = 0x3F6C835E#32 ∧
    sinRef 10 341 = 0x3F5DF6BE#32 ∧ sinRef 10 640 = 0xBF3504F3#32 ∧ sinRef 10 768 = 0xBF800000#32 := by decide +kernel
theorem test_rom4_is_reference : sinRomRef 2 = rom4 := by decide +kernel
theorem test_lookup_wraps : lookup rom4 0xBE800000#32 = 0xBF800000#32 ∧ lookup rom4 0x3FA00000#32 = 0x3F800000#32 := by
  decide +kernel
theorem test_inc_of_note_127 : incOf { tc1 with sampleRate := 44100 } 127#7 = 0x3E91A244#32 := by decide +kernel
theorem test_limit : limit 0x3F800000#32 = 0x3F42F7D6#32 ∧ limit 0x41100000#32 = 0x3F7FFFFF#32 ∧
    limit 0xC1200000#32 = 0xBF800000#32 := by decide +kernel
theorem test_quantise : quantise 0x3EADD5F9#32 = 11125 ∧ quantise 0x37FFDA40#32 = 0 ∧ quantise 0x380205FF#32 = 1 := by
  decide +kernel
theorem test_lcg : lcgNext 0#32 = 0x3C6EF35F#32 ∧ lcgUniform 0x3C6EF35F#32 = 0x3E71BBCC#32 := by decide +kernel

/-! The instructions. -/

/-- The worked example of R155. -/
theorem test_nop : after .nop busy id = some busy := by decide +kernel

/-- The worked example of R140. -/
theorem test_note_on : after (.noteOn 69#7 100#7) (fresh { tc1 with sampleRate := 44100 }) (fun t => (t.voice 0, t.ageCtr)) =
    some ({ active := true, note := 69#7, age := 0#32, phase := 0#32, inc := 0x3C2377EE#32, stage := .attack,
            level := 0#32, velGain := 0x3F499326#32, transient := 0x3F800000#32, filt := 0#32 }, 1#32) := by
  decide +kernel

/-- R149 step 9: the oldest slot is stolen. -/
theorem test_note_on_steals : after (.noteOn 68#7 100#7) full (fun t => ((t.voice 0).note, (t.voice 0).age, (t.voice 1).note)) =
    some (68#7, 9#32, 60#7) := by decide +kernel

/-- R145: Release at the current level. -/
theorem test_note_off : after (.noteOff 60#7) busy (fun t => t.voice 0) = some { sounding with stage := .release } := by
  decide +kernel

/-- R146 item 4: the stale note of a free slot is not matched. -/
theorem test_note_off_skips_free : after (.noteOff 0#7) busy (fun t => (t.voice 1).stage) = some .off := by decide +kernel

/-- R147. -/
theorem test_all_notes_off : after .allNotesOff full (fun t => (slots.map (fun i => (t.voice i).active), t.echoOn)) =
    some ([false, false, false, false, false, false, false, false], true) := by decide +kernel

/-- R164 rows of SET_PRESET. -/
theorem test_set_preset : [3#8, 4#8, 255#8].map (fun v => after (.setPreset v) busy State.preset) =
    [some 3#2, some 3#2, some 3#2] := by decide +kernel

/-- R164 rows of SET_MASTER_GAIN. -/
theorem test_set_master_gain :
    [0xBF800000#32, 0x80000000#32, 0x3FC00000#32, 0x7F800000#32, 0x7FC00000#32].map
      (fun f => after (.setMasterGain f) busy State.masterGain) =
    [some 0#32, some 0x80000000#32, some 0x3F800000#32, some 0x3F800000#32, some 0#32] := by decide +kernel

/-- R158: the index and the RAM stay. -/
theorem test_set_echo_on : after (.setEchoOn false) busy (fun t => (t.echoOn, t.echoIdx, t.echoRam)) =
    some (false, 2, [(0, 0x3F800000#32)]) := by decide +kernel

/-- The worked example of R159. -/
theorem test_set_echo_mix : after (.setEchoMix 0xBE800000#32) busy State.echoMix = some 0#32 := by decide +kernel

/-- R164 rows of SET_ECHO_FB. -/
theorem test_set_echo_fb : [0x3F59999A#32, 0x3F5C28F6#32, 0x3F599999#32].map (fun f => after (.setEchoFb f) busy State.echoFb) =
    [some 0x3F59999A#32, some 0x3F59999A#32, some 0x3F599999#32] := by decide +kernel

/-- The worked example of R161: the index is kept while it is in range, else it is 0. -/
theorem test_set_echo_ms_index :
    [1000, 2000].map (fun k =>
      after (.setEchoMs 0x41F00000#32) { fresh { tc1 with sampleRate := 44100 } with echoLen := 4410, echoIdx := k }
        (fun t => (t.echoMs, t.echoLen, t.echoIdx))) =
    [some (0x41F00000#32, 1323, 1000), some (0x41F00000#32, 1323, 0)] := by decide +kernel

/-- R164 rows of SET_ECHO_MS. -/
theorem test_set_echo_ms_clamps :
    [0x447A0000#32, 0x437A8000#32, 0x7FC00000#32].map (fun f =>
      after (.setEchoMs f) (fresh { tc1 with sampleRate := 44100 }) (fun t => (t.echoMs, t.echoLen))) =
    [some (0x44480000#32, 35280), some (0x437A8000#32, 11047), some (0x41F00000#32, 1323)] := by decide +kernel

/-- Program P1 of section T10, first block, with the reference table of 1024 entries. -/
theorem test_render_sine :
    afterAll [.setMasterGain 0x3F800000#32, .noteOn 117#7 127#7, .render] (State.resetOf tc1 (sinRomRef 10)) samples =
      some [0, 8025, 11125, 8025] := by decide +kernel

/-- Program P4 of section T10, its first block and the block that carries the first echo. -/
theorem test_render_echo :
    afterAll [.setMasterGain 0x3F800000#32, .setEchoOn true, .setEchoFb 0x3F000000#32, .setEchoMix 0x3F000000#32,
        .noteOn 21#7 127#7, .render, .allNotesOff, .render, .render] (fresh tc3)
      (fun t => (samples t, t.echoRam, t.echoIdx)) =
    some ([0, 11125, 0, 0, 2888, 0], [(1, 0x3E3504F3#32)], 0) := by decide +kernel

/-- R212. -/
theorem test_render_skip : after .renderSkip busy id = some busy := by decide +kernel

/-- The host's placement of an instruction: the next step runs exactly it. -/
theorem test_step_runs_placed_word : step (State.reset.withFetchWord 40 0x0300000000) = exec .allNotesOff State.reset := rfl

/-! Witnesses: states and operands that meet the hypotheses of the statements, at boundary values. -/

theorem witness_well_formed : [Instr.noteOn 127#7 127#7, .setPreset 255#8, .setMasterGain 0xFFFFFFFF#32, .render].all Instr.wf =
    true := by decide

theorem witness_decoder :
    (∀ op ∈ [0x04#8, 0x0F#8, 0x16#8, 0xFF#8],
      op ∉ [0x00#8, 0x01#8, 0x02#8, 0x03#8, 0x10#8, 0x11#8, 0x12#8, 0x13#8, 0x14#8, 0x15#8]) ∧
    encode (.setEchoOn true) = .cmd 0x1200000001#40 ∧ decode (.cmd 0x12FFFFFFFF#40) = .instr (.setEchoOn true) := by decide

theorem witness_presented :
    busy.ports = PortEdge.ofWord (.request true) :: [] ∧ decode (.request true) = .instr .render ∧ Instr.render.wf = true := by
  decide

theorem witness_reserved :
    ((0x04#8 ≤ 0x04#8 ∧ 0x04#8 ≤ 0x0F#8) ∨ (0x16#8 ≤ 0x04#8 ∧ 0x04#8 ≤ 0xFF#8)) ∧
    ((0x04#8 ≤ 0xFF#8 ∧ 0xFF#8 ≤ 0x0F#8) ∨ (0x16#8 ≤ 0xFF#8 ∧ 0xFF#8 ≤ 0xFF#8)) ∧
    (busy.setPorts [PortEdge.ofWord (.cmd (0x04#8 ++ 0#32))]).ports = PortEdge.ofWord (.cmd (0x04#8 ++ 0#32)) :: [] ∧
    (busy.setPorts [PortEdge.ofWord (.cmd (0xFF#8 ++ 1#32))]).ports = PortEdge.ofWord (.cmd (0xFF#8 ++ 1#32)) :: [] := by
  decide

/-- One edge for each clause of the arbitration: all three presented, request and command, a command, nothing. -/
theorem witness_arbitration :
    (∀ e ∈ [({ rst := true, request := some ⟨true, none⟩, command := some 0x010000643C#40 } : PortEdge)],
      (busy.setPorts [e]).ports = e :: [] ∧ e.rst = true) ∧
    (∀ a ∈ [true, false], ∀ e ∈ [({ rst := false, request := some ⟨a, none⟩, command := some 0x010000643C#40 } : PortEdge)],
      (busy.setPorts [e]).ports = e :: [] ∧ e.rst = false ∧ e.request = some { avail := a, cutAfter := none }) ∧
    (∀ e ∈ [PortEdge.ofWord (.cmd 0x010000643C#40)], (busy.setPorts [e]).ports = e :: [] ∧ e.rst = false ∧
      e.request = none ∧ e.command = some 0x010000643C#40 ∧ decode (.cmd 0x010000643C#40) = .instr (.noteOn 60#7 100#7)) ∧
    (∀ e ∈ [({ rst := false, request := none, command := none } : PortEdge)],
      (busy.setPorts [e]).ports = e :: [] ∧ e.rst = false ∧ e.request = none ∧ e.command = none) := by
  decide

/-- A render cut before its first frame and after its last one. -/
theorem witness_cut : ∀ k ∈ [0, 2], k ≤ busy.cfg.blockSize ∧
    (∀ e ∈ [({ rst := false, request := some ⟨true, some k⟩, command := none } : PortEdge)],
      (busy.setPorts [e]).ports = e :: []) ∧
    (after .render (busy.setPorts (heldCommand none [])) State.echoIdx).isSome = true := by decide +kernel

theorem witness_reset_edge : (busy.setPorts [PortEdge.ofReset]).ports = PortEdge.ofReset :: [] := by decide

theorem witness_rom : RomInv (fresh tc1) := by
  refine ⟨?_, ?_, ?_, ?_, ?_⟩ <;> decide +kernel

theorem witness_legal_build : tc1.wf = true ∧ RomInv (State.resetOf tc1 rom4) := ⟨test_wf_tc1, witness_rom⟩

theorem witness_note_on_completes : ({ busy with ageCtr := 0xFFFFFFFE#32 } : State).ageCtr ≠ 0xFFFFFFFF#32 := by decide

theorem witness_note_on_refused : ({ busy with ageCtr := 0xFFFFFFFF#32 } : State).ageCtr = 0xFFFFFFFF#32 := by decide

theorem witness_allocator :
    ((busy.voice 1).active = false ∧ ∀ j : Fin 8, j < 1 → (busy.voice j).active = true) ∧
    (((fresh tc1).voice 0).active = false ∧ ∀ j : Fin 8, j < 0 → ((fresh tc1).voice j).active = true) ∧
    (∀ i : Fin 8, (full.voice i).active = true) := by decide +kernel

theorem witness_nine_notes : (∀ i : Fin 8, ((fresh tc1).voice i).active = false) ∧ (fresh tc1).ageCtr.toNat + 9 < 2 ^ 32 := by
  decide +kernel

theorem witness_unheld_note : ∀ i : Fin 8, (busy.voice i).active = true → (busy.voice i).note ≠ 0#7 := by decide +kernel

theorem witness_no_render : Instr.setEchoMs 0#32 ≠ .render ∧ (after (.setEchoMs 0#32) busy State.echoIdx) = some 2 ∧
    Instr.noteOn 60#7 0#7 ≠ .render ∧ after (.noteOn 60#7 0#7) busy State.ageCtr = some 2#32 := by decide +kernel

theorem witness_render : (busy.echoOn = true → EchoIndexInv busy) ∧ busy.echoOn = true ∧
    ((fresh tc1).echoOn = true → EchoIndexInv (fresh tc1)) ∧ (fresh tc1).echoOn = false := by decide +kernel

theorem witness_one_frame : (busy.withBlockSize 1).cfg.blockSize = 1 ∧
    ((busy.withBlockSize 1).echoOn = true → (busy.withBlockSize 1).echoIdx < (busy.withBlockSize 1).cfg.echoCap) := by decide

theorem witness_idle : (∀ i : Fin 8, ((fresh tc1).voice i).active = false) ∧ (fresh tc1).echoOn = false ∧
    inRange (fresh tc1).masterGain 0#32 0x3F800000#32 = true := by decide +kernel

theorem witness_busy_levels : LevelsInv busy := by decide +kernel

theorem witness_busy_phases : PhasesInv busy := by decide +kernel

theorem witness_busy_parameters : EchoIndexInv busy ∧ ParamsInv busy := by decide +kernel

theorem witness_busy_bounds : BoundsInv busy :=
  ⟨witness_busy_levels, witness_busy_phases, witness_busy_parameters.2, witness_rom, by decide +kernel, by decide +kernel⟩

/-- The busy state with the echo off. -/
def silent (gain : F32) : State := { busy with echoOn := false, masterGain := gain }

/-- With the echo off and the gain at zero of either sign, a voice sounding. -/
theorem witness_zero_gain : BoundsInv (silent 0#32) ∧ (silent 0#32).echoOn = false ∧ fle (silent 0#32).masterGain 0#32 = true ∧
    BoundsInv (silent 0x80000000#32) ∧ fle (silent 0x80000000#32).masterGain 0#32 = true :=
  have p : ParamsInv (silent 0#32) ∧ ParamsInv (silent 0x80000000#32) := by decide +kernel
  have b := witness_busy_bounds.2.2.2
  ⟨⟨witness_busy_levels, witness_busy_phases, p.1, b⟩, rfl, by decide +kernel,
    ⟨witness_busy_levels, witness_busy_phases, p.2, b⟩, by decide +kernel⟩

/-- A step that answers a next state, from the busy state: it renders a block. -/
theorem witness_busy_steps : (nextOf (step busy)).map (fun t => (t.echoIdx, t.out.length)) = some (1, 2) := by decide +kernel

theorem witness_split : (after .render (busy.withBlockSize (1 + 1)) State.echoIdx).isSome = true ∧
    (after .render (busy.withBlockSize (0 + 1)) State.echoIdx).isSome = true := by decide +kernel

theorem witness_other_presets : ∀ p ∈ [0#2, 1#2, 2#2, 3#2],
    (after .render ({ busy with preset := p } : State) State.preset) = some p := by decide +kernel

theorem witness_voice_frame : Voice.reset.active = false ∧
    ((({ sounding with stage := .release } : Voice).active = true) ∧
      (envStep tc1 { sounding with stage := .release }).active = false) ∧
    sounding.active = true ∧ (envStep tc1 sounding).active = true := by decide +kernel

theorem witness_envelope : tc1.wf = true ∧ LevelOk tc1 { sounding with stage := .attack, level := 0#32 } ∧
    LevelOk tc1 { sounding with stage := .decay } ∧ LevelOk tc1 sounding ∧
    LevelOk tc1 { sounding with stage := .release, level := 0x3F000000#32 } := by decide +kernel

/-- Every stage occurs, and both sides of the snap test. -/
theorem witness_envelope_stages : [Stage.attack, .decay, .sustain, .release, .off].map Stage.code = [0#3, 1#3, 2#3, 3#3, 4#3] ∧
    fle 0x38D1B717#32 tc1.envEps = true ∧ fle 0x38D1B718#32 tc1.envEps = false := by decide +kernel

theorem witness_phase : inUnitInterval sounding.phase = true ∧ incOk sounding.inc = true ∧ inUnitInterval 0#32 = true ∧
    incOk 0x42E411F0#32 = true := by decide +kernel

theorem witness_lookup : rom4.length = 2 ^ 2 ∧ 2 ≤ 2 ∧ 2 ≤ 23 ∧ isFinite 0xBE800000#32 = true ∧
    magUnits 0xBE800000#32 < 2 ^ 249 ∧ isFinite 0x80000001#32 = true ∧ magUnits 0x80000001#32 < 2 ^ 249 := by decide +kernel

theorem witness_lookup_largest_table : (List.replicate (2 ^ 23) (0#32 : F32)).length = 2 ^ 23 := List.length_replicate

theorem witness_disabled_echo : (fresh tc1).echoOn = false := by decide

theorem witness_enabled_echo : busy.echoOn = true ∧ EchoIndexInv busy ∧ EchoRam.wf busy.echoRam = true ∧
    busy.cfg.wetTap = .y ∧ ({ busy with cfg := { tc3 with wetTap := .d } } : State).cfg.wetTap = .d ∧
    EchoIndexInv { busy with cfg := { tc3 with wetTap := .d } } := by decide +kernel

/-- The state of the zero-feedback statement, for either tap, at a cell that holds a sample. -/
theorem witness_zero_feedback : ∀ w ∈ [WetTap.y, WetTap.d],
    ∀ s ∈ [({ busy with echoFb := 0#32, echoMix := 0x3F800000#32, echoIdx := 0, cfg := { tc3 with wetTap := w } } : State)],
      s.echoOn = true ∧ EchoRam.wf s.echoRam = true ∧ s.echoFb = 0#32 ∧ s.echoMix = 0x3F800000#32 ∧
      isFinite 0x80000000#32 = true ∧ isFinite (EchoRam.read s.echoRam s.echoIdx) = true ∧ s.cfg.wetTap = w := by
  decide +kernel

theorem witness_limiter : isNan 0x7F800000#32 = false ∧ isNan 0x80000000#32 = false := by decide +kernel

theorem witness_quantiser : inRange 0xBF800000#32 0xBF800000#32 0x3F800000#32 = true ∧
    inRange 0x3F800000#32 0xBF800000#32 0x3F800000#32 = true := by decide +kernel

theorem witness_busy_voices : VoicesInv busy := by decide +kernel

theorem witness_busy_ages : AgesInv busy ∧ AgesInv full := by decide +kernel

theorem witness_busy_memory : MemoryInv busy ∧ EchoIndexInv busy := by decide +kernel

theorem witness_can_step : CanStep busy := by decide +kernel

/-- The one refusal, reached: NOTE_ON at the last age. -/
theorem witness_refusal : step ({ busy with ageCtr := 0xFFFFFFFF#32, ports := [PortEdge.ofWord (.cmd 0x010000643C#40)] } : State) =
    .refused .ageCounterExhausted := rfl

/-- The one fault, reached in a state that no run reaches: the index names a cell that does not exist. -/
theorem witness_fault : (match step ({ busy with echoIdx := 36000 } : State) with
    | .fault r => some r
    | .next _ => none
    | .refused _ => none) = some .echoCellAbsent := by decide +kernel

end Sys2Proof.Tests
end

section
/-! SUPPORT. The rounding of rules R13 to R16 as an order fact: a rounded result lies on the same side of every F32 as
the exact value (`Rounds`). Each operation on finite values gives one; floor and fraction are exact. -/

namespace Sys2Proof.Rounding

open Sys2Proof.Machine

/-! `roundMag` is monotone, and exact at every F32 magnitude. -/

/-- Rounding to the nearest integer moves a value by less than one. -/
theorem nearestEven_bounds (num den : Nat) :
    num / den ≤ nearestEven num den ∧ nearestEven num den ≤ num / den + 1 := by
  simp only [nearestEven]
  split <;> omega

theorem nearestEven_mono {num num' : Nat} (den : Nat) (h : num ≤ num') :
    nearestEven num den ≤ nearestEven num' den := by
  rcases (Nat.div_le_div_right (c := den) h).lt_or_eq with hlt | heq
  · exact (nearestEven_bounds num den).2.trans ((Nat.succ_le_of_lt hlt).trans (nearestEven_bounds num' den).1)
  · have hr : num % den ≤ num' % den := by
      have h1 := Nat.div_add_mod num den
      have h2 := Nat.div_add_mod num' den
      rw [heq] at h1
      omega
    simp only [nearestEven, heq]
    split_ifs <;> omega

theorem nearestEven_mul_self (m : Nat) {den : Nat} (h : 0 < den) : nearestEven (m * den) den = m := by
  simp only [nearestEven, Nat.mul_div_cancel _ h, Nat.mul_mod_left]
  exact if_neg (by omega)

/-- The binade shift of `roundMag` brings the quotient below `2^24`. -/
theorem div_shift_lt (q : Nat) : q / 2 ^ (Nat.log2 q - 23) < 2 ^ 24 := by
  rw [Nat.div_lt_iff_lt_mul (by positivity), ← pow_add]
  exact Nat.lt_log2_self.trans_le (Nat.pow_le_pow_right (by norm_num) (by omega))

/-- A positive binade shift leaves the quotient at `2^23` at least. -/
theorem le_div_shift {q : Nat} (h : 0 < Nat.log2 q - 23) : 2 ^ 23 ≤ q / 2 ^ (Nat.log2 q - 23) := by
  rw [Nat.le_div_iff_mul_le (by positivity), ← pow_add]
  have hq : q ≠ 0 := by rintro rfl; simp at h
  exact (Nat.pow_le_pow_right (by norm_num) (by omega)).trans (Nat.log2_self_le hq)

theorem log2_le_log2 {a b : Nat} (h : a ≤ b) : Nat.log2 a ≤ Nat.log2 b := by
  simpa only [Nat.log2_eq_log_two] using Nat.log_mono_right h

/-- Rounding keeps the order of the magnitudes. -/
theorem roundMag_mono {num num' : Nat} (den : Nat) (h : num ≤ num') : roundMag num den ≤ roundMag num' den := by
  have hs : Nat.log2 (num / den) - 23 ≤ Nat.log2 (num' / den) - 23 :=
    Nat.sub_le_sub_right (log2_le_log2 (Nat.div_le_div_right h)) 23
  refine min_le_min_right _ ?_
  rcases hs.eq_or_lt with heq | hlt
  · rw [heq]
    exact Nat.add_le_add_left (nearestEven_mono _ h) _
  · have hlow := (nearestEven_bounds num (den * 2 ^ (Nat.log2 (num / den) - 23))).2
    have hhigh := (nearestEven_bounds num' (den * 2 ^ (Nat.log2 (num' / den) - 23))).1
    have h24 := div_shift_lt (num / den)
    have h23 := le_div_shift (q := num' / den) (by omega)
    rw [← Nat.div_div_eq_div_mul] at hlow hhigh
    omega

/-- A magnitude of 24 significant bits is rounded to itself. -/
theorem roundMag_exact {m k den : Nat} (hd : 0 < den) (hm : m < 2 ^ 24) (hk : 2 ^ 23 ≤ m ∨ k = 0) :
    roundMag (m * 2 ^ k * den) den = min (k * 2 ^ 23 + m) 0x7F800000 := by
  have hs : Nat.log2 (m * 2 ^ k) - 23 = k := by
    rcases hk with hm' | rfl
    · have h0 : m ≠ 0 := by omega
      have : Nat.log2 (m * 2 ^ k) = 23 + k :=
        (Nat.log2_eq_iff (by positivity)).mpr
          ⟨by rw [pow_add]; exact Nat.mul_le_mul_right _ hm',
            by rw [Nat.add_right_comm, pow_add]; exact Nat.mul_lt_mul_of_pos_right hm (by positivity)⟩
      omega
    · have h23 : Nat.log2 m ≤ 23 := (log2_le_log2 (Nat.le_of_lt_succ hm)).trans (by decide)
      rw [pow_zero, Nat.mul_one]
      omega
  have he : nearestEven (m * 2 ^ k * den) (den * 2 ^ k) = m := by
    rw [Nat.mul_assoc, Nat.mul_comm (2 ^ k)]
    exact nearestEven_mul_self m (by positivity)
  simp only [roundMag, Nat.mul_div_cancel _ hd, hs, he]

/-! The fields of a pattern, and the order of the values. -/

/-- The pattern of a value with its sign bit cleared. -/
def magBits (a : F32) : Nat := (a.extractLsb' 0 31).toNat

theorem magBits_eq (a : F32) : magBits a = expField a * 2 ^ 23 + fracField a := by
  simp only [magBits, expField, fracField, BitVec.extractLsb'_toNat, Nat.shiftRight_eq_div_pow]
  omega

theorem fracField_lt (a : F32) : fracField a < 2 ^ 23 := (a.extractLsb' 0 23).isLt

theorem isNan_eq_false_iff {a : F32} : isNan a = false ↔ magBits a ≤ 0x7F800000 := by
  have he : expField a < 256 := (a.extractLsb' 23 8).isLt
  have hf := fracField_lt a
  rw [magBits_eq]
  simp [isNan]
  omega

theorem isFinite_iff {a : F32} : isFinite a = true ↔ magBits a < 0x7F800000 := by
  have he : expField a < 256 := (a.extractLsb' 23 8).isLt
  have hf := fracField_lt a
  rw [magBits_eq]
  simp [isFinite]
  omega

/-- A magnitude is `m · 2^k` units for the 24-bit significand `m` and binade `k` its pattern is made of. -/
theorem exists_significand (a : F32) : ∃ m k, magUnits a = m * 2 ^ k ∧ magBits a = k * 2 ^ 23 + m ∧
    m < 2 ^ 24 ∧ (2 ^ 23 ≤ m ∨ k = 0) := by
  have hf := fracField_lt a
  by_cases he : expField a = 0
  · exact ⟨fracField a, 0, by simp [magUnits, he], by simp [magBits_eq, he], by omega, Or.inr rfl⟩
  · refine ⟨2 ^ 23 + fracField a, expField a - 1, by simp [magUnits, he], ?_, by omega, Or.inl (by omega)⟩
    rw [magBits_eq]
    omega

/-- Every magnitude that is no NaN, the infinite one included, is rounded to its own pattern. -/
theorem roundMag_magUnits {a : F32} {den : Nat} (ha : isNan a = false) (hd : 0 < den) :
    roundMag (magUnits a * den) den = magBits a := by
  obtain ⟨m, k, hu, hb, hm, hk⟩ := exists_significand a
  rw [hu, roundMag_exact hd hm hk, ← hb]
  exact min_eq_left (isNan_eq_false_iff.mp ha)

theorem magBits_le_of_magUnits_le {a b : F32} (ha : isNan a = false) (hb : isNan b = false)
    (h : magUnits a ≤ magUnits b) : magBits a ≤ magBits b := by
  have := roundMag_mono 1 h
  rwa [← Nat.mul_one (magUnits a), ← Nat.mul_one (magUnits b), roundMag_magUnits ha one_pos,
    roundMag_magUnits hb one_pos] at this

theorem magUnits_eq_of_magBits_eq {a b : F32} (h : magBits a = magBits b) : magUnits a = magUnits b := by
  have ha := fracField_lt a
  have hb := fracField_lt b
  rw [magBits_eq, magBits_eq] at h
  have he : expField a = expField b := by omega
  have hf : fracField a = fracField b := by omega
  simp only [magUnits, he, hf]

/-- Magnitudes lie in the order of their patterns (R14). -/
theorem magBits_le_iff {a b : F32} (ha : isNan a = false) (hb : isNan b = false) :
    magBits a ≤ magBits b ↔ magUnits a ≤ magUnits b := by
  refine ⟨fun h => ?_, magBits_le_of_magUnits_le ha hb⟩
  by_contra hlt
  have := magBits_le_of_magUnits_le hb ha (by omega)
  exact hlt (magUnits_eq_of_magBits_eq (by omega)).le

theorem orderKey_eq (a : F32) : orderKey a = if signBit a then -(magBits a : Int) else magBits a := rfl

theorem magBits_eq_zero_iff {a : F32} : magBits a = 0 ↔ magUnits a = 0 := by
  obtain ⟨m, k, hu, hb, -, hk⟩ := exists_significand a
  rw [hu, hb]
  simp
  omega

/-- Off the NaNs, `a <= b` compares the exact values (R14). -/
theorem fle_iff_units {a b : F32} (ha : isNan a = false) (hb : isNan b = false) :
    fle a b = true ↔ units a ≤ units b := by
  have hab := magBits_le_iff ha hb
  have hba := magBits_le_iff hb ha
  have ha0 := magBits_eq_zero_iff (a := a)
  have hb0 := magBits_eq_zero_iff (a := b)
  simp only [fle_iff, ha, hb, true_and, orderKey_eq, units]
  split_ifs <;> omega

theorem flt_iff_units {a b : F32} (ha : isNan a = false) (hb : isNan b = false) :
    flt a b = true ↔ units a < units b := by
  rw [← not_le, ← fle_iff_units hb ha]
  simp [flt, fle, ha, hb]

/-- Finite is below `2^277` units, the magnitude that `magUnits` gives the pattern of an infinity. -/
theorem isFinite_iff_units {a : F32} (ha : isNan a = false) : isFinite a = true ↔ |units a| < 2 ^ 277 := by
  have hle := magBits_le_iff (a := 0x7F800000#32) (b := a) (by decide) ha
  have hinf : magBits 0x7F800000#32 = 0x7F800000 := by decide
  have hinfu : magUnits 0x7F800000#32 = 2 ^ 277 := by decide +kernel
  have habs : |units a| = magUnits a := by
    unfold units
    split <;> simp
  rw [isFinite_iff, habs]
  rw [hinf, hinfu] at hle
  omega

/-! What a rounded result is known to satisfy, and the operations that give one. -/

/-- `r` is no NaN and lies on the same side of every F32 as the exact value `num / den` units (R13): all that interval
reasoning needs of a rounding. -/
def Rounds (r : F32) (num : Int) (den : Nat) : Prop :=
  isNan r = false ∧ ∀ f : F32, isNan f = false →
    (units f * den ≤ num → units f ≤ units r) ∧ (num ≤ units f * den → units r ≤ units f)

theorem Rounds.not_nan {r : F32} {num : Int} {den : Nat} (h : Rounds r num den) : isNan r = false := h.1

theorem Rounds.le {r f : F32} {num : Int} {den : Nat} (h : Rounds r num den) (hf : isNan f = false)
    (hn : num ≤ units f * den) : units r ≤ units f := (h.2 f hf).2 hn

theorem Rounds.ge {r f : F32} {num : Int} {den : Nat} (h : Rounds r num den) (hf : isNan f = false)
    (hn : units f * den ≤ num) : units f ≤ units r := (h.2 f hf).1 hn

/-- A rounding of a value between two F32 lies between them. -/
theorem Rounds.inRange {r lo hi : F32} {num : Int} {den : Nat} (h : Rounds r num den) (hlo : isNan lo = false)
    (hhi : isNan hi = false) (h1 : units lo * den ≤ num) (h2 : num ≤ units hi * den) : inRange r lo hi = true := by
  simp only [Sys2Proof.inRange, Bool.and_eq_true]
  exact ⟨(fle_iff_units hlo h.not_nan).mpr (h.ge hlo h1), (fle_iff_units h.not_nan hhi).mpr (h.le hhi h2)⟩

theorem roundMag_le_inf (num den : Nat) : roundMag num den ≤ 0x7F800000 := by
  simp only [roundMag]
  omega

theorem magBits_eq_mod (a : F32) : magBits a = a.toNat % 2 ^ 31 := by
  simp [magBits, BitVec.extractLsb'_toNat]

theorem toNat_rn (neg : Bool) (num den : Nat) :
    (rn neg num den).toNat = roundMag num den + if neg then 2 ^ 31 else 0 := by
  have := roundMag_le_inf num den
  rw [rn, BitVec.toNat_ofNat]
  cases neg <;> simp only [if_true, if_false, Bool.false_eq_true] <;> omega

theorem magBits_rn (neg : Bool) (num den : Nat) : magBits (rn neg num den) = roundMag num den := by
  have := roundMag_le_inf num den
  rw [magBits_eq_mod, toNat_rn]
  cases neg <;> simp only [if_true, if_false, Bool.false_eq_true] <;> omega

theorem signBit_eq (a : F32) : signBit a = decide (2 ^ 31 ≤ a.toNat) := by
  have := a.isLt
  simp only [signBit, BitVec.getLsbD, Nat.testBit_eq_decide_div_mod_eq]
  congr 1
  simp only [eq_iff_iff]
  omega

theorem signBit_rn (neg : Bool) (num den : Nat) : signBit (rn neg num den) = neg := by
  have := roundMag_le_inf num den
  rw [signBit_eq, toNat_rn]
  cases neg <;> simp; omega

/-- A rounded magnitude against the magnitude of an F32. -/
theorem magUnits_rn_le {neg : Bool} {num den : Nat} {f : F32} (hf : isNan f = false) (hd : 0 < den)
    (h : num ≤ magUnits f * den) : magUnits (rn neg num den) ≤ magUnits f := by
  rw [← magBits_le_iff (isNan_eq_false_iff.mpr (magBits_rn .. ▸ roundMag_le_inf ..)) hf, magBits_rn,
    ← roundMag_magUnits hf hd]
  exact roundMag_mono den h

theorem le_magUnits_rn {neg : Bool} {num den : Nat} {f : F32} (hf : isNan f = false) (hd : 0 < den)
    (h : magUnits f * den ≤ num) : magUnits f ≤ magUnits (rn neg num den) := by
  rw [← magBits_le_iff hf (isNan_eq_false_iff.mpr (magBits_rn .. ▸ roundMag_le_inf ..)), magBits_rn,
    ← roundMag_magUnits hf hd]
  exact roundMag_mono den h

/-- `rn` rounds the value of its sign and magnitude. -/
theorem rounds_rn (neg : Bool) (num : Nat) {den : Nat} (hd : 0 < den) :
    Rounds (rn neg num den) (if neg then -(num : Int) else num) den := by
  refine ⟨isNan_eq_false_iff.mpr (magBits_rn .. ▸ roundMag_le_inf ..), fun f hf => ?_⟩
  have hle : num ≤ magUnits f * den → _ := magUnits_rn_le (neg := neg) hf hd
  have hge : magUnits f * den ≤ num → _ := le_magUnits_rn (neg := neg) hf hd
  have h0 : num ≤ 0 → magUnits (rn neg num den) ≤ 0 := fun h =>
    magUnits_rn_le (f := 0#32) (by decide) hd (h.trans (Nat.zero_le _))
  have hpos : (0 : Int) ≤ magUnits f * den := by positivity
  have hz : magUnits f * den ≤ 0 → magUnits f = 0 := fun h => by
    simpa [hd.ne'] using h
  zify at hle hge h0 hz
  simp only [units, signBit_rn]
  cases neg <;> cases signBit f <;> simp only [if_true, if_false, Bool.false_eq_true, neg_mul] <;> omega

/-- An exact zero of either sign. -/
theorem rounds_signedZero (neg : Bool) {den : Nat} (hd : 0 < den) : Rounds (signedZero neg) 0 den := by
  have h0 : units (signedZero neg) = 0 := by cases neg <;> decide
  have hd' : (0 : Int) < den := by exact_mod_cast hd
  refine ⟨by cases neg <;> decide, fun f _ => ?_⟩
  rw [h0]
  exact ⟨fun h => by nlinarith, fun h => by nlinarith⟩

theorem not_inf_of_finite {a : F32} (h : isFinite a = true) : isInf a = false := by
  simp_all [isFinite, isInf]

/-- `fadd` of finite values: an exact zero, or the rounded sum (R14). -/
theorem fadd_of_finite {a b : F32} (ha : isFinite a = true) (hb : isFinite b = true) :
    fadd a b = if units a + units b = 0 then signedZero (signBit a && signBit b)
      else rn (decide (units a + units b < 0)) (units a + units b).natAbs 1 := by
  simp only [fadd, not_nan_of_finite ha, not_nan_of_finite hb, not_inf_of_finite ha, not_inf_of_finite hb,
    Bool.or_self, Bool.false_eq_true, if_false]

/-- `fadd` of finite values rounds the exact sum (R14). -/
theorem rounds_fadd {a b : F32} (ha : isFinite a = true) (hb : isFinite b = true) :
    Rounds (fadd a b) (units a + units b) 1 := by
  rw [fadd_of_finite ha hb]
  split_ifs with h0
  · exact h0 ▸ rounds_signedZero _ one_pos
  · convert rounds_rn (decide (units a + units b < 0)) (units a + units b).natAbs one_pos using 1
    split_ifs with hneg <;> simp at hneg <;> omega

/-- A sum less than half a step above the greatest finite F32 does not overflow (R14). -/
theorem isFinite_fadd {a b : F32} (ha : isFinite a = true) (hb : isFinite b = true)
    (h : (units a + units b).natAbs ≤ magUnits 0x7F7FFFFF#32 + 2 ^ 149) : isFinite (fadd a b) = true := by
  rw [fadd_of_finite ha hb]
  split_ifs with h0
  · cases (signBit a && signBit b) <;> decide
  · have hmax : roundMag (magUnits 0x7F7FFFFF#32 + 2 ^ 149) 1 = 0x7F7FFFFF := by decide +kernel
    have := roundMag_mono 1 h
    rw [isFinite_iff, magBits_rn]
    omega

/-! Negation. -/

@[simp] theorem signBit_fneg (a : F32) : signBit (fneg a) = !signBit a := by
  simp [signBit, fneg]

@[simp] theorem magBits_fneg (a : F32) : magBits (fneg a) = magBits a := by
  simp only [magBits, fneg, BitVec.extractLsb'_xor]
  simp

@[simp] theorem isNan_fneg (a : F32) : isNan (fneg a) = isNan a := by
  rw [Bool.eq_iff_iff, ← not_iff_not]
  simp only [Bool.not_eq_true, isNan_eq_false_iff, magBits_fneg]

@[simp] theorem isFinite_fneg (a : F32) : isFinite (fneg a) = isFinite a := by
  rw [Bool.eq_iff_iff, isFinite_iff, isFinite_iff, magBits_fneg]

@[simp] theorem units_fneg (a : F32) : units (fneg a) = -units a := by
  have h : magUnits (fneg a) = magUnits a := magUnits_eq_of_magBits_eq (magBits_fneg a)
  cases hs : signBit a <;> simp [units, h, hs]

/-- `fsub` of finite values rounds the exact difference (R14). -/
theorem rounds_fsub {a b : F32} (ha : isFinite a = true) (hb : isFinite b = true) :
    Rounds (fsub a b) (units a - units b) 1 := by
  have h := rounds_fadd ha ((isFinite_fneg b).trans hb)
  simpa [fsub, not_nan_of_finite ha, not_nan_of_finite hb, sub_eq_add_neg] using h

/-- The exact product, by its sign and its magnitude. -/
theorem units_mul_units (a b : F32) :
    units a * units b = if (signBit a != signBit b) then -((magUnits a * magUnits b : Nat) : Int)
      else (magUnits a * magUnits b : Nat) := by
  cases ha : signBit a <;> cases hb : signBit b <;> simp [units, ha, hb]

/-- `fmul` of finite values rounds the exact product (R14). -/
theorem rounds_fmul {a b : F32} (ha : isFinite a = true) (hb : isFinite b = true) :
    Rounds (fmul a b) (units a * units b) (2 ^ 149) := by
  simp only [fmul, not_nan_of_finite ha, not_nan_of_finite hb, not_inf_of_finite ha, not_inf_of_finite hb,
    Bool.or_self, Bool.false_eq_true, if_false, units_mul_units]
  exact rounds_rn _ _ (by positivity)

/-- `fdiv` of a finite value by a positive finite one rounds the exact quotient (R14). -/
theorem rounds_fdiv {a b : F32} (ha : isFinite a = true) (hb : isFinite b = true) (hpos : 0 < units b) :
    Rounds (fdiv a b) (units a * 2 ^ 149) (units b).toNat := by
  have hs : signBit b = false := by
    cases hs : signBit b with
    | false => rfl
    | true => simp [units, hs] at hpos; omega
  have hu : units b = magUnits b := by simp [units, hs]
  have hm : 0 < magUnits b := by omega
  simp only [fdiv, not_nan_of_finite ha, not_nan_of_finite hb, not_inf_of_finite ha, not_inf_of_finite hb,
    Bool.or_self, Bool.false_eq_true, if_false, hm.ne', hs, Bool.bne_false, hu, Int.toNat_natCast]
  convert rounds_rn (signBit a) (magUnits a * 2 ^ 149) hm using 1
  cases h : signBit a <;> simp [units, h]

/-- `i2f` rounds the integer. -/
theorem rounds_i2f (n : Nat) : Rounds (i2f n) (n * 2 ^ 149) 1 := by
  have h := rounds_rn false (n * 2 ^ 149) one_pos
  rw [i2f, ofInt, decide_eq_false (by omega), Int.natAbs_natCast]
  simpa only [Bool.false_eq_true, if_false, Nat.cast_mul, Nat.cast_pow, Nat.cast_ofNat] using h

/-! Exactly representable values, floor and fraction. -/

/-- A rounding of an F32 is that F32's value. -/
theorem Rounds.eq {r f : F32} {num : Int} {den : Nat} (h : Rounds r num den) (hf : isNan f = false)
    (hn : num = units f * den) : units r = units f :=
  le_antisymm (h.le hf hn.le) (h.ge hf hn.ge)

theorem Rounds.fneg {r : F32} {num : Int} {den : Nat} (h : Rounds r num den) : Rounds (fneg r) (-num) den := by
  refine ⟨(isNan_fneg r).trans h.not_nan, fun f hf => ?_⟩
  have hf' := (isNan_fneg f).trans hf
  have hle := h.le hf'
  have hge := h.ge hf'
  simp only [units_fneg, neg_mul] at *
  constructor <;> intro <;> omega

/-- The pattern of binade `k` and significand `m` has the magnitude `m · 2^k`. -/
theorem units_ofNat {m k : Nat} (hm : m < 2 ^ 24) (hk : 2 ^ 23 ≤ m ∨ k = 0) (hfin : k ≤ 253) :
    isFinite (BitVec.ofNat 32 (k * 2 ^ 23 + m)) = true ∧ units (BitVec.ofNat 32 (k * 2 ^ 23 + m)) = m * 2 ^ k := by
  have hb : (BitVec.ofNat 32 (k * 2 ^ 23 + m)).toNat = k * 2 ^ 23 + m := by
    rw [BitVec.toNat_ofNat]
    omega
  generalize BitVec.ofNat 32 (k * 2 ^ 23 + m) = f at hb
  have hmag : magBits f = k * 2 ^ 23 + m := by rw [magBits_eq_mod, hb]; omega
  have hsign : signBit f = false := by rw [signBit_eq, hb]; simp; omega
  refine ⟨by rw [isFinite_iff, hmag]; omega, ?_⟩
  have hfrac := fracField_lt f
  rw [magBits_eq] at hmag
  simp only [units, hsign, magUnits, Bool.false_eq_true, if_false]
  rcases hk with h23 | rfl
  · have he : expField f = k + 1 := by omega
    have hm : 2 ^ 23 + fracField f = m := by omega
    rw [if_neg (by omega), he, hm]
    push_cast
    rfl
  · split_ifs with he
    · simp; omega
    · have he : expField f = 1 := by omega
      simp [he]
      omega

/-- Every integer below `2^24` on a grid of the format is an F32. -/
theorem exists_units_eq {n : Nat} (hn : n < 2 ^ 24) :
    ∀ {g : Nat}, g ≤ 253 → ∃ f : F32, isFinite f = true ∧ units f = n * 2 ^ g := by
  intro g
  induction g generalizing n with
  | zero => exact fun hg => ⟨_, units_ofNat hn (Or.inr rfl) hg⟩
  | succ g ih =>
    intro hg
    by_cases h23 : 2 ^ 23 ≤ n
    · exact ⟨_, units_ofNat hn (Or.inl h23) hg⟩
    · obtain ⟨f, hf, hu⟩ := ih (n := n * 2) (by omega) (by omega)
      exact ⟨f, hf, by rw [hu]; push_cast; ring⟩

/-- A finite value that is not negative, by its significand and binade. -/
theorem exists_units_of_nonneg {a : F32} (ha : isFinite a = true) (h0 : 0 ≤ units a) :
    ∃ m k : Nat, units a = m * 2 ^ k ∧ m < 2 ^ 24 ∧ k ≤ 253 := by
  obtain ⟨m, k, hu, hb, hm, hk⟩ := exists_significand a
  have hfin := isFinite_iff.mp ha
  have hmag : units a = magUnits a := by
    unfold units at h0 ⊢
    split_ifs at h0 ⊢ <;> omega
  exact ⟨m, k, by rw [hmag, hu]; push_cast; rfl, hm, by omega⟩

/-- The integer part of a finite value that is not negative is an F32. -/
theorem exists_units_floor {a : F32} (ha : isFinite a = true) (h0 : 0 ≤ units a) :
    ∃ f : F32, isFinite f = true ∧ units f = units a / 2 ^ 149 * 2 ^ 149 := by
  obtain ⟨m, k, hu, hm, hk⟩ := exists_units_of_nonneg ha h0
  rcases Nat.le_total 149 k with h149 | h149
  · obtain ⟨d, rfl⟩ := Nat.exists_eq_add_of_le h149
    refine ⟨a, ha, (Int.ediv_mul_cancel ?_).symm⟩
    exact hu ▸ Dvd.intro_left (m * 2 ^ d) (by rw [pow_add]; ring)
  · obtain ⟨d, hd⟩ := Nat.exists_eq_add_of_le h149
    have hq : units a / 2 ^ 149 = (m / 2 ^ d : Nat) := by
      rw [hu, hd, pow_add, mul_comm ((2 : Int) ^ k), Int.mul_ediv_mul_of_pos_left _ _ (by positivity)]
      push_cast
      rfl
    rw [hq]
    exact exists_units_eq ((Nat.div_le_self ..).trans_lt hm) (by norm_num)

/-- `ffloor` of a finite value that is not negative is exact (R15). -/
theorem units_ffloor {a : F32} (ha : isFinite a = true) (h0 : 0 ≤ units a) :
    isFinite (ffloor a) = true ∧ units (ffloor a) = units a / 2 ^ 149 * 2 ^ 149 := by
  obtain ⟨f, hf, hu⟩ := exists_units_floor ha h0
  have hfloor : ffloor a = i2f (units a / 2 ^ 149).toNat := by
    simp only [ffloor, floorInt, ha, if_true, Option.map_some, Option.getD_some, i2f]
    congr 1
    omega
  have hr := rounds_i2f (units a / 2 ^ 149).toNat
  rw [← hfloor] at hr
  have heq : units (ffloor a) = units f := hr.eq (not_nan_of_finite hf) (by omega)
  refine ⟨?_, heq.trans hu⟩
  rw [isFinite_iff_units hr.not_nan, heq]
  exact (isFinite_iff_units (not_nan_of_finite hf)).mp hf

/-- `frac` of a finite value that is not negative rounds its part below 1.0 (R15). -/
theorem rounds_frac {a : F32} (ha : isFinite a = true) (h0 : 0 ≤ units a) :
    Rounds (frac a) (units a % 2 ^ 149) 1 := by
  obtain ⟨hf, hu⟩ := units_ffloor ha h0
  have h := rounds_fsub ha hf
  have hmod : units a - units a / 2 ^ 149 * 2 ^ 149 = units a % 2 ^ 149 := by omega
  rw [hu, hmod] at h
  exact h

/-- The part below 1.0 of a value from 1.0 on lies on the grid of the value, so it is at most `1 - 2^-23`. -/
theorem emod_le_of_one_le {a : F32} (ha : isFinite a = true) (h1 : 2 ^ 149 ≤ units a) :
    units a % 2 ^ 149 ≤ 2 ^ 149 - 2 ^ 126 := by
  obtain ⟨m, k, hu, hm, -⟩ := exists_units_of_nonneg ha (by omega)
  have hk : 126 ≤ k := by
    by_contra hlt
    have hpow : (2 : Int) ^ k ≤ 2 ^ 125 := pow_le_pow_right₀ (by norm_num) (by omega)
    have hm' : (m : Int) < 2 ^ 24 := by exact_mod_cast hm
    nlinarith
  have hdvd : (2 : Int) ^ 126 ∣ units a := hu ▸ (pow_dvd_pow 2 hk).mul_left _
  omega

theorem units_zero : units Lit.zero = 0 := by decide

theorem units_one : units Lit.one = 2 ^ 149 := by decide +kernel

/-- `frac` of a finite value that is not negative lies in `[0, 1)` (R15, R185). -/
theorem frac_inUnitInterval {a : F32} (ha : isFinite a = true) (h0 : 0 ≤ units a) :
    inUnitInterval (frac a) = true := by
  have hr := rounds_frac ha h0
  have hge : 0 ≤ units (frac a) := units_zero ▸ hr.ge (f := Lit.zero) (by decide) (by rw [units_zero]; omega)
  have hlt : units (frac a) < 2 ^ 149 := by
    by_cases h1 : 2 ^ 149 ≤ units a
    · have hbelow : units 0x3F7FFFFF#32 = 2 ^ 149 - 2 ^ 125 := by decide +kernel
      have := hr.le (f := 0x3F7FFFFF#32) (by decide) (by have := emod_le_of_one_le ha h1; omega)
      omega
    · have := hr.le (not_nan_of_finite ha) (by omega)
      omega
  simp only [inUnitInterval, Bool.and_eq_true]
  rw [fle_iff_units (by decide) hr.not_nan, flt_iff_units hr.not_nan (by decide), units_zero, units_one]
  exact ⟨hge, hlt⟩

end Sys2Proof.Rounding
end

section
/-! SUPPORT. The bounds of the signal path (R19, R188, R200), along the data flow: table, oscillators, filter, envelope,
voice, sum, echo, and then the whole state under every step. -/

namespace Sys2Proof.SignalBounds

open Sys2Proof.Machine Sys2Proof.Rounding

/-! Intervals of F32, and how the operations move them. -/

theorem inRange_iff {x lo hi : F32} : inRange x lo hi = true ↔
    isNan lo = false ∧ isNan x = false ∧ isNan hi = false ∧ units lo ≤ units x ∧ units x ≤ units hi := by
  simp only [inRange, Bool.and_eq_true]
  constructor
  · rintro ⟨h1, h2⟩
    obtain ⟨hlo, hx⟩ := not_nan_of_fle h1
    have hhi := (not_nan_of_fle h2).2
    exact ⟨hlo, hx, hhi, (fle_iff_units hlo hx).mp h1, (fle_iff_units hx hhi).mp h2⟩
  · rintro ⟨hlo, hx, hhi, h1, h2⟩
    exact ⟨(fle_iff_units hlo hx).mpr h1, (fle_iff_units hx hhi).mpr h2⟩

theorem magLe_iff {x b : F32} : magLe x b = true ↔ isNan x = false ∧ isNan b = false ∧ |units x| ≤ units b := by
  simp only [magLe, inRange_iff, isNan_fneg, units_fneg, abs_le]
  tauto

theorem magLe_mono {x b b' : F32} (h : magLe x b = true) (hb' : isNan b' = false) (hle : units b ≤ units b') :
    magLe x b' = true := by
  obtain ⟨hx, -, hb⟩ := magLe_iff.mp h
  exact magLe_iff.mpr ⟨hx, hb', hb.trans hle⟩

/-- Within a finite bound a value is finite. -/
theorem isFinite_of_magLe {x b : F32} (h : magLe x b = true) (hb : isFinite b = true) : isFinite x = true := by
  obtain ⟨hx, hbn, hle⟩ := magLe_iff.mp h
  rw [isFinite_iff_units hx]
  exact hle.trans_lt ((le_abs_self _).trans_lt ((isFinite_iff_units hbn).mp hb))

/-- `[0, hi]` is within `[-hi, hi]`. -/
theorem magLe_of_inRange {x hi : F32} (h : inRange x Lit.zero hi = true) : magLe x hi = true := by
  obtain ⟨-, hx, hhi, h0, h1⟩ := inRange_iff.mp h
  rw [units_zero] at h0
  exact magLe_iff.mpr ⟨hx, hhi, abs_le.mpr ⟨by omega, h1⟩⟩

theorem isFinite_of_unit {x : F32} (h : inRange x Lit.zero Lit.one = true) : isFinite x = true :=
  isFinite_of_magLe (magLe_of_inRange h) (by decide)

/-- A clamp answers a value of its interval (R16). -/
theorem inRange_clampf (x : F32) {lo hi : F32} (h : fle lo hi = true) : inRange (clampf x lo hi) lo hi = true := by
  obtain ⟨hlo, hhi⟩ := not_nan_of_fle h
  have hlohi := (fle_iff_units hlo hhi).mp h
  rw [inRange_iff]
  rcases clampf_cases x lo hi with ⟨-, hc⟩ | ⟨-, -, hc⟩ | ⟨h1, h2, hc⟩ <;> rw [hc]
  · exact ⟨hlo, hlo, hhi, le_rfl, hlohi⟩
  · exact ⟨hlo, hhi, hhi, hlohi, le_rfl⟩
  · have hx := (not_nan_of_fle h1).2
    refine ⟨hlo, hx, hhi, (fle_iff_units hlo hx).mp h1, ?_⟩
    by_contra hlt
    rw [fgt, (flt_iff_units hhi hx).mpr (by omega)] at h2
    cases h2

/-- A rounding of a value within a bound of the format stays within it. -/
theorem magLe_of_rounds {r c : F32} {num : Int} {den : Nat} (h : Rounds r num den) (hc : isNan c = false)
    (hn : |num| ≤ units c * den) : magLe r c = true := by
  obtain ⟨h1, h2⟩ := abs_le.mp hn
  exact h.inRange ((isNan_fneg c).trans hc) hc (by rw [units_fneg]; linarith) h2

section Operations

variable {a b A B C : F32} (ha : magLe a A = true) (hb : magLe b B = true)
include ha hb

theorem magLe_fadd (h : isFinite A = true ∧ isFinite B = true ∧ isNan C = false ∧ units A + units B ≤ units C) :
    magLe (fadd a b) C = true := by
  obtain ⟨hA, hB, hC, hABC⟩ := h
  obtain ⟨-, -, ha'⟩ := magLe_iff.mp ha
  obtain ⟨-, -, hb'⟩ := magLe_iff.mp hb
  refine magLe_of_rounds (rounds_fadd (isFinite_of_magLe ha hA) (isFinite_of_magLe hb hB)) hC ?_
  have := abs_add_le (units a) (units b)
  push_cast
  linarith

theorem magLe_fsub (h : isFinite A = true ∧ isFinite B = true ∧ isNan C = false ∧ units A + units B ≤ units C) :
    magLe (fsub a b) C = true := by
  obtain ⟨hA, hB, hC, hABC⟩ := h
  obtain ⟨-, -, ha'⟩ := magLe_iff.mp ha
  obtain ⟨-, -, hb'⟩ := magLe_iff.mp hb
  refine magLe_of_rounds (rounds_fsub (isFinite_of_magLe ha hA) (isFinite_of_magLe hb hB)) hC ?_
  have := abs_sub (units a) (units b)
  push_cast
  linarith

theorem magLe_fmul
    (h : isFinite A = true ∧ isFinite B = true ∧ isNan C = false ∧ units A * units B ≤ units C * 2 ^ 149) :
    magLe (fmul a b) C = true := by
  obtain ⟨hA, hB, hC, hABC⟩ := h
  obtain ⟨-, -, ha'⟩ := magLe_iff.mp ha
  obtain ⟨-, -, hb'⟩ := magLe_iff.mp hb
  refine magLe_of_rounds (rounds_fmul (isFinite_of_magLe ha hA) (isFinite_of_magLe hb hB)) hC ?_
  rw [abs_mul]
  exact (mul_le_mul ha' hb' (abs_nonneg _) ((abs_nonneg _).trans ha')).trans (by exact_mod_cast hABC)

end Operations

theorem inRange_unit_zero : inRange Lit.zero Lit.zero Lit.one = true := by decide

theorem inRange_unit_one : inRange Lit.one Lit.zero Lit.one = true := by decide

/-- A factor in `[-1, 1]` does not raise a bound. -/
theorem magLe_fmul_one {a b A : F32} (ha : magLe a A = true) (hb : magLe b Lit.one = true) (hA : isFinite A = true) :
    magLe (fmul a b) A = true :=
  magLe_fmul ha hb ⟨hA, by decide, not_nan_of_finite hA, by rw [units_one]⟩

/-- `[0, 1]` is closed under products. -/
theorem inRange_unit_fmul {a b : F32} (ha : inRange a Lit.zero Lit.one = true)
    (hb : inRange b Lit.zero Lit.one = true) : inRange (fmul a b) Lit.zero Lit.one = true := by
  have hfa := isFinite_of_unit ha
  have hfb := isFinite_of_unit hb
  obtain ⟨-, -, -, ha0, ha1⟩ := inRange_iff.mp ha
  obtain ⟨-, -, -, hb0, hb1⟩ := inRange_iff.mp hb
  rw [units_zero, units_one] at *
  refine (rounds_fmul hfa hfb).inRange (by decide) (by decide) ?_ ?_
  · rw [units_zero, zero_mul]
    positivity
  · rw [units_one]
    exact mul_le_mul ha1 hb1 hb0 (by positivity)

/-- A quotient of two integers `n ≤ d < 2^24` lies in `[0, 1]`. -/
theorem inRange_i2f_fdiv {n : Nat} {d : F32} (hd : isFinite d = true) (h0 : 0 < units d)
    (hn : (n : Int) * 2 ^ 149 ≤ units d) : inRange (fdiv (i2f n) d) Lit.zero Lit.one = true := by
  have hr := rounds_i2f n
  have hrange : inRange (i2f n) Lit.zero d = true :=
    hr.inRange (by decide) (not_nan_of_finite hd) (by rw [units_zero]; positivity) (by push_cast; linarith)
  obtain ⟨-, -, -, h1, h2⟩ := inRange_iff.mp hrange
  rw [units_zero] at h1
  refine (rounds_fdiv (isFinite_of_magLe (magLe_of_inRange hrange) hd) hd h0).inRange (by decide) (by decide) ?_ ?_
  · rw [units_zero, zero_mul]
    positivity
  · rw [units_one, Int.toNat_of_nonneg h0.le, mul_comm]
    exact Int.mul_le_mul_of_nonneg_left h2 (by positivity)

/-! The wavetable and the oscillators (R110, R178 to R182). -/

/-- Every entry of the sine table lies in `[-1, 1]` (R17). -/
def RomBounded (rom : List F32) : Prop := rom.all (fun x => magLe x Lit.one) = true

/-- A look-up answers a table entry or the free value, both in `[-1, 1]` (R110, R111). -/
theorem magLe_lookup {rom : List F32} (h : RomBounded rom) (p : F32) : magLe (lookup rom p) Lit.one = true := by
  have hfree : magLe (lookupUnspecified p) Lit.one = true := inRange_clampf _ (by decide)
  unfold lookup
  cases hk : (romIndex rom p).bind (fun k => rom[k]?) with
  | none => exact hfree
  | some x =>
    obtain ⟨k, -, hx⟩ := Option.bind_eq_some_iff.mp hk
    exact List.all_eq_true.mp h x (List.mem_of_getElem? hx)

theorem magLe_harmonic {rom : List F32} (h : RomBounded rom) (m p : F32) :
    magLe (harmonic rom m p) Lit.one = true := magLe_lookup h _

/-- A harmonic scaled by a coefficient of the presets. -/
theorem magLe_fmul_harmonic {rom : List F32} (h : RomBounded rom) (m p : F32) {c : F32} (hc : magLe c c = true)
    (hf : isFinite c = true) : magLe (fmul c (harmonic rom m p)) c = true :=
  magLe_fmul_one hc (magLe_harmonic h m p) hf

/-- 2.5, a bound of the partial sums of the harmonic presets. -/
def c2p5 : F32 := 0x40200000#32

/-- 1.25, a bound of the input of the preset-3 filter. -/
def c1p25 : F32 := 0x3FA00000#32

theorem magLe_additive {rom : List F32} (h : RomBounded rom) (p : F32) :
    magLe (additive rom p) Lit.three = true := by
  have h2 : magLe (fmul Lit.c0p5 (harmonic rom Lit.two p)) Lit.c0p5 = true :=
    magLe_fmul_harmonic h _ _ (by decide) (by decide)
  have h3 : magLe (fmul Lit.c0p3 (harmonic rom Lit.three p)) Lit.c0p3 = true :=
    magLe_fmul_harmonic h _ _ (by decide) (by decide)
  have h4 : magLe (fmul Lit.c0p2 (harmonic rom Lit.c1p5 p)) Lit.c0p2 = true :=
    magLe_fmul_harmonic h _ _ (by decide) (by decide)
  have s2 : magLe (fadd (lookup rom p) _) Lit.two = true := magLe_fadd (magLe_lookup h p) h2 (by decide +kernel)
  have s3 : magLe (fadd _ _) c2p5 = true := magLe_fadd s2 h3 (by decide +kernel)
  exact magLe_fadd s3 h4 (by decide +kernel)

theorem magLe_electricStack {rom : List F32} (h : RomBounded rom) (p : F32) :
    magLe (electricStack rom p) Lit.two = true := by
  have h2 : magLe (fmul Lit.c0p35 (harmonic rom Lit.two p)) Lit.c0p35 = true :=
    magLe_fmul_harmonic h _ _ (by decide) (by decide)
  have h4 : magLe (fmul Lit.c0p15 (harmonic rom Lit.four p)) Lit.c0p15 = true :=
    magLe_fmul_harmonic h _ _ (by decide) (by decide)
  have s2 : magLe (fadd (lookup rom p) _) Lit.c1p5 = true := magLe_fadd (magLe_lookup h p) h2 (by decide +kernel)
  exact magLe_fadd s2 h4 (by decide +kernel)

theorem magLe_padInput {rom : List F32} (h : RomBounded rom) (p : F32) : magLe (padInput rom p) c1p25 = true := by
  have h1 : magLe (fmul Lit.c0p6 (harmonic rom Lit.c1p004 p)) Lit.c0p6 = true :=
    magLe_fmul_harmonic h _ _ (by decide) (by decide)
  have h2 : magLe (fmul Lit.c0p6 (harmonic rom Lit.c0p996 p)) Lit.c0p6 = true :=
    magLe_fmul_harmonic h _ _ (by decide) (by decide)
  exact magLe_fadd h1 h2 (by decide +kernel)

/-- The uniform sample lies in `[0, 1]` (R182). -/
theorem inRange_lcgUniform (x : BitVec 32) : inRange (lcgUniform x) Lit.zero Lit.one = true := by
  have hx : (x >>> 8).toNat < 2 ^ 24 := by
    rw [BitVec.toNat_ushiftRight, Nat.shiftRight_eq_div_pow]
    have := x.isLt
    omega
  have h24 : units Lit.c2p24 = 2 ^ 24 * 2 ^ 149 := by decide +kernel
  refine inRange_i2f_fdiv (by decide) (by rw [h24]; positivity) ?_
  rw [h24]
  exact Int.mul_le_mul_of_nonneg_right (by exact_mod_cast hx.le) (by positivity)

/-- The noise term is a fraction of the transient, which is at most 1.0 (R181). -/
theorem magLe_noise (lcg : BitVec 32) {t : F32} (ht : magLe t Lit.one = true) :
    magLe (noise lcg t) Lit.one = true := by
  have h1 : magLe (fmul (lcgUniform lcg) Lit.two) Lit.two = true :=
    magLe_fmul (magLe_of_inRange (inRange_lcgUniform lcg)) (B := Lit.two) (by decide) (by decide +kernel)
  have h2 : magLe (fsub _ Lit.one) Lit.three = true := magLe_fsub h1 (B := Lit.one) (by decide) (by decide +kernel)
  have h3 : magLe (fmul _ Lit.c0p15) Lit.one = true := magLe_fmul h2 (B := Lit.c0p15) (by decide) (by decide +kernel)
  exact magLe_fmul_one h3 ht (by decide)

/-! The one-pole low-pass (R183): a step of `0 ≤ a ≤ 1` from `z` towards `x` does not leave the bound of `z`. -/

/-- The upper bound, from what the roundings `d` of `x - z` and `e` of `a · d` are known to satisfy. When `x` is above
`z`, the step is at most `x - z` rounded up to a multiple of 0.5. -/
theorem lowpass_le {a x z d e : F32} (hd : Rounds d (units x - units z) 1)
    (he : Rounds e (units a * units d) (2 ^ 149)) (ha0 : 0 ≤ units a) (ha1 : units a ≤ 2 ^ 149)
    (hx : units x ≤ units c1p25) (hz : |units z| ≤ units Lit.two) : units z + units e ≤ units Lit.two := by
  have h125 : units c1p25 = 5 * 2 ^ 147 := by decide +kernel
  have h2 : units Lit.two = 2 ^ 150 := by decide +kernel
  rw [h125] at hx
  rw [h2] at hz ⊢
  obtain ⟨hz1, hz2⟩ := abs_le.mp hz
  by_cases hxz : units x ≤ units z
  · have hd0 : units d ≤ 0 := units_zero ▸ hd.le (f := Lit.zero) (by decide) (by rw [units_zero]; omega)
    have he0 : units e ≤ 0 := units_zero ▸ he.le (f := Lit.zero) (by decide) (by rw [units_zero]; nlinarith)
    omega
  · have hd0 : 0 ≤ units d := units_zero ▸ hd.ge (f := Lit.zero) (by decide) (by rw [units_zero]; omega)
    have hed : units e ≤ units d := he.le hd.not_nan (by push_cast; nlinarith)
    obtain ⟨n, hn⟩ := Int.eq_ofNat_of_zero_le (a := (units x - units z) / 2 ^ 148 + 1) (by omega)
    obtain ⟨f, hf, hu⟩ := exists_units_eq (n := n) (g := 148) (by omega) (by norm_num)
    have hdf : units d ≤ units f := hd.le (not_nan_of_finite hf) (by omega)
    omega

/-- The filter memory stays within 2.0 on the input of preset 3 (R188, with slack). -/
theorem magLe_padFilter {a z x : F32} (ha0 : flt Lit.zero a = true) (ha1 : flt a Lit.one = true)
    (hz : magLe z Lit.two = true) (hx : magLe x c1p25 = true) : magLe (padFilter a z x) Lit.two = true := by
  obtain ⟨-, hna, -⟩ := flt_iff.mp ha0
  have hau0 := (flt_iff_units (by decide) hna).mp ha0
  have hau1 := (flt_iff_units hna (by decide)).mp ha1
  rw [units_zero] at hau0
  have ha : magLe a Lit.one = true := magLe_iff.mpr ⟨hna, by decide, abs_le.mpr ⟨by omega, hau1.le⟩⟩
  rw [units_one] at hau1
  have hd : magLe (fsub x z) Lit.four = true := magLe_fsub hx hz (by decide +kernel)
  have he : magLe (fmul a (fsub x z)) Lit.four = true := magLe_fmul ha hd (by decide +kernel)
  have hfa := isFinite_of_magLe ha (by decide)
  have hfx := isFinite_of_magLe hx (by decide)
  have hfz := isFinite_of_magLe hz (by decide)
  have hfd := isFinite_of_magLe hd (by decide)
  have hfe := isFinite_of_magLe he (by decide)
  have rd := rounds_fsub hfx hfz
  have re := rounds_fmul hfa hfd
  obtain ⟨-, -, hx'⟩ := magLe_iff.mp hx
  obtain ⟨-, -, hz'⟩ := magLe_iff.mp hz
  obtain ⟨hxl, hxu⟩ := abs_le.mp hx'
  have hupper := lowpass_le rd re hau0.le hau1.le hxu hz'
  have hlower := lowpass_le (a := a) (x := fneg x) (z := fneg z) (d := fneg (fsub x z)) (e := fneg (fmul a (fsub x z)))
    (by simpa [sub_eq_add_neg, add_comm] using rd.fneg) (by simpa using re.fneg) hau0.le hau1.le
    (by rw [units_fneg]; omega) (by rwa [units_fneg, abs_neg])
  rw [units_fneg, units_fneg] at hlower
  exact magLe_of_rounds (rounds_fadd hfz hfe) (by decide) (abs_le.mpr ⟨by push_cast; omega, by push_cast; omega⟩)

/-! What a legal build says of its constants (R8). -/

section Build

variable {c : Config} (h : c.wf = true)
include h

theorem wf_rate : 1 ≤ c.sampleRate ∧ c.sampleRate < 2 ^ 24 := by
  simp only [Config.wf, Config.rateOk, Bool.and_eq_true, decide_eq_true_eq] at h
  tauto

theorem wf_sustain : inRange c.sustainLevel Lit.zero Lit.one = true := by
  simp only [Config.wf, Config.envelopeOk, Bool.and_eq_true] at h
  tauto

theorem wf_times : isFinite c.attackS = true ∧ isFinite c.decayS = true ∧ isFinite c.releaseS = true := by
  simp only [Config.wf, Config.envelopeOk, Config.timeOk, Bool.and_eq_true] at h
  tauto

theorem wf_envEps : flt Lit.zero c.envEps = true := by
  simp only [Config.wf, Config.envelopeOk, Bool.and_eq_true] at h
  tauto

theorem wf_padAlpha : flt Lit.zero c.padAlpha = true ∧ flt c.padAlpha Lit.one = true := by
  simp only [Config.wf, Config.padOk, Bool.and_eq_true] at h
  tauto

theorem wf_resets : inRange c.rstMasterGain Lit.zero Lit.one = true ∧ inRange c.rstEchoMix Lit.zero Lit.one = true ∧
    inRange c.rstEchoFb Lit.zero Lit.c0p85 = true ∧ inRange c.rstEchoMs Lit.c30 Lit.c800 = true := by
  simp only [Config.wf, Config.resetsOk, Bool.and_eq_true] at h
  tauto

/-- The sample rate as an F32 is finite and at least 1.0. -/
theorem rateF32_bounds : isFinite (rateF32 c) = true ∧ 2 ^ 149 ≤ units (rateF32 c) := by
  obtain ⟨h1, h2⟩ := wf_rate h
  have h24 : units Lit.c2p24 = 2 ^ 24 * 2 ^ 149 := by decide +kernel
  have hr := rounds_i2f c.sampleRate
  have hrange : inRange (rateF32 c) Lit.one Lit.c2p24 = true :=
    hr.inRange (by decide) (by decide) (by rw [units_one]; push_cast; omega) (by rw [h24]; push_cast; omega)
  obtain ⟨-, hn, -, hlo, hhi⟩ := inRange_iff.mp hrange
  rw [units_one] at hlo
  refine ⟨(isFinite_iff_units hn).mpr ?_, hlo⟩
  rw [abs_of_nonneg (by omega)]
  omega

end Build

/-! The envelope (R120 to R128). Its steps can be infinite: a step constant is a quotient. -/

/-- A value that is no NaN and not finite is an infinity. -/
theorem isInf_of_not_finite {a : F32} (h : isNan a = false) (hf : isFinite a = false) : isInf a = true := by
  simp_all [isNan, isInf, isFinite]

theorem fadd_inf_right {a b : F32} (ha : isFinite a = true) (hn : isNan b = false) (hb : isInf b = true) :
    fadd a b = b := by
  simp [fadd, not_nan_of_finite ha, not_inf_of_finite ha, hn, hb]

theorem fsub_inf_right {a b : F32} (ha : isFinite a = true) (hn : isNan b = false) (hb : isInf (fneg b) = true) :
    fsub a b = fneg b := by
  simp only [fsub, not_nan_of_finite ha, hn, Bool.or_self, Bool.false_eq_true, if_false]
  exact fadd_inf_right ha ((isNan_fneg b).trans hn) hb

theorem fle_zero_iff {a : F32} (ha : isNan a = false) : fle Lit.zero a = true ↔ 0 ≤ units a := by
  rw [fle_iff_units (by decide) ha, units_zero]

theorem flt_zero_iff {a : F32} (ha : isNan a = false) : flt Lit.zero a = true ↔ 0 < units a := by
  rw [flt_iff_units (by decide) ha, units_zero]

/-- A sum of two values that are not negative is not negative, and no NaN. -/
theorem fle_zero_fadd {a b : F32} (ha : isFinite a = true) (ha0 : fle Lit.zero a = true)
    (hb0 : fle Lit.zero b = true) : fle Lit.zero (fadd a b) = true := by
  have hn := (not_nan_of_fle hb0).2
  cases hb : isFinite b with
  | false => rwa [fadd_inf_right ha hn (isInf_of_not_finite hn hb)]
  | true =>
    have hr := rounds_fadd ha hb
    rw [fle_zero_iff (not_nan_of_finite ha)] at ha0
    rw [fle_zero_iff hn] at hb0
    rw [fle_zero_iff hr.not_nan, ← units_zero]
    exact hr.ge (by decide) (by rw [units_zero]; omega)

/-- Taking away a value that is not negative does not raise a finite value, and gives no NaN. -/
theorem fle_fsub_self {a b : F32} (ha : isFinite a = true) (hb0 : fle Lit.zero b = true) :
    fle (fsub a b) a = true := by
  have hn := (not_nan_of_fle hb0).2
  have hna := not_nan_of_finite ha
  rw [fle_zero_iff hn] at hb0
  cases hb : isFinite b with
  | false =>
    have hnb : isNan (fneg b) = false := (isNan_fneg b).trans hn
    rw [fsub_inf_right ha hn (isInf_of_not_finite hnb ((isFinite_fneg b).trans hb)), fle_iff_units hnb hna, units_fneg]
    have hlt := (isFinite_iff_units hna).mp ha
    have hge := (isFinite_iff_units hn).not.mp (by simp [hb])
    rw [abs_of_nonneg hb0] at hge
    have := neg_abs_le (units a)
    omega
  | true =>
    have hr := rounds_fsub ha hb
    rw [fle_iff_units hr.not_nan hna]
    exact hr.le hna (by push_cast; omega)

/-- A quotient of a value that is not negative by a positive one is not negative, and no NaN. -/
theorem fle_zero_fdiv {a b : F32} (ha : isFinite a = true) (ha0 : fle Lit.zero a = true) (hb0 : flt Lit.zero b = true) :
    fle Lit.zero (fdiv a b) = true := by
  have hn : isNan b = false := (flt_iff.mp hb0).2.1
  rw [flt_zero_iff hn] at hb0
  rw [fle_zero_iff (not_nan_of_finite ha)] at ha0
  cases hb : isFinite b with
  | false =>
    have hz : fdiv a b = signedZero (signBit a != signBit b) := by
      simp [fdiv, not_nan_of_finite ha, hn, not_inf_of_finite ha, isInf_of_not_finite hn hb]
    rw [hz]
    cases (signBit a != signBit b) <;> decide
  | true =>
    have hr := rounds_fdiv ha hb hb0
    rw [fle_zero_iff hr.not_nan, ← units_zero]
    exact hr.ge (by decide) (by rw [units_zero, zero_mul]; positivity)

/-- A ramp up by a step that is not negative, still below 1.0, stays in `[0, 1]`. -/
theorem ramp_up {l step : F32} (hl : inRange l Lit.zero Lit.one = true) (hstep : fle Lit.zero step = true)
    (hbelow : fge (fadd l step) Lit.one = false) : inRange (fadd l step) Lit.zero Lit.one = true := by
  obtain ⟨-, hnan, -, h0, -⟩ := inRange_iff.mp hl
  have hge := fle_zero_fadd (isFinite_of_unit hl) ((fle_iff_units (by decide) hnan).mpr h0) hstep
  have hn := (not_nan_of_fle hge).2
  have hlt := (flt_iff_units hn (by decide)).mp (flt_of_not_fle hn (by decide) hbelow)
  simp only [inRange, Bool.and_eq_true]
  exact ⟨hge, (fle_iff_units hn (by decide)).mpr hlt.le⟩

/-- A ramp down by a step that is not negative, still above `lo`, stays in `[lo, 1]`. -/
theorem ramp_down {l lo step : F32} (hl : inRange l Lit.zero Lit.one = true) (hlo : isNan lo = false)
    (hstep : fle Lit.zero step = true) (habove : fle (fsub l step) lo = false) :
    fle lo (fsub l step) = true ∧ fle (fsub l step) Lit.one = true := by
  obtain ⟨-, hnan, -, -, h1⟩ := inRange_iff.mp hl
  have hle := fle_fsub_self (isFinite_of_unit hl) hstep
  have hn := (not_nan_of_fle hle).1
  have hlt := (flt_iff_units hlo hn).mp (flt_of_not_fle hlo hn habove)
  exact ⟨(fle_iff_units hlo hn).mpr hlt.le, fle_trans hle ((fle_iff_units hnan (by decide)).mpr h1)⟩

section Envelope

variable {c : Config} (h : c.wf = true)
include h

/-- A stage time that does not snap is positive, and so is its length in frames (R121). -/
theorem flt_zero_stageFrames {t : F32} (ht : isFinite t = true) (hs : snaps c t = false) :
    flt Lit.zero (fmul t (rateF32 c)) = true := by
  obtain ⟨hrf, hr1⟩ := rateF32_bounds h
  have heps := wf_envEps h
  obtain ⟨-, hne, -⟩ := flt_iff.mp heps
  have hnt := not_nan_of_finite ht
  rw [flt_zero_iff hne] at heps
  have hlt := (flt_iff_units hne hnt).mp (flt_of_not_fle hne hnt hs)
  have hmul := rounds_fmul ht hrf
  rw [flt_zero_iff hmul.not_nan]
  have : units t ≤ units (fmul t (rateF32 c)) := hmul.ge hnt (by push_cast; nlinarith)
  omega

/-- The step constant of a stage that does not snap is no NaN and not negative (R121). -/
theorem fle_zero_stageStep {n t : F32} (hn : inRange n Lit.zero Lit.one = true) (ht : isFinite t = true)
    (hs : snaps c t = false) : fle Lit.zero (fdiv n (fmul t (rateF32 c))) = true := by
  obtain ⟨-, hnan, -, h0, -⟩ := inRange_iff.mp hn
  exact fle_zero_fdiv (isFinite_of_unit hn) ((fle_iff_units (by decide) hnan).mpr h0) (flt_zero_stageFrames h ht hs)

/-- What a decay goes down by, `1 - SUSTAIN_LEVEL`, lies in `[0, 1]`. -/
theorem inRange_decaySpan : inRange (fsub Lit.one c.sustainLevel) Lit.zero Lit.one = true := by
  have hs := wf_sustain h
  obtain ⟨-, -, -, h0, h1⟩ := inRange_iff.mp hs
  rw [units_zero] at h0
  have hr := rounds_fsub (a := Lit.one) (by decide) (isFinite_of_unit hs)
  exact hr.inRange (by decide) (by decide) (by rw [units_zero]; omega) (by push_cast; omega)

/-- An envelope step keeps the level in range and at the sustain level's side of it (R120 to R125). -/
theorem levelOk_envStep {v : Voice} (hv : LevelOk c v) : LevelOk c (envStep c v) := by
  obtain ⟨hl, hdec, hsus⟩ := hv
  obtain ⟨ha, hd, hr⟩ := wf_times h
  have hs := wf_sustain h
  obtain ⟨-, hns, -, hs0, hs1⟩ := inRange_iff.mp hs
  rcases envStep_cases c v with he | ⟨hst, he⟩ | ⟨hst, hsnap, hbelow, he⟩ | ⟨hst, he⟩ | ⟨hst, hsnap, habove, he⟩ |
    ⟨hst, he⟩ | ⟨hst, hsnap, habove, he⟩ <;> rw [he]
  · exact ⟨hl, hdec, hsus⟩
  · exact ⟨inRange_unit_one, fun _ => (fle_iff_units (b := Lit.one) hns (by decide)).mpr hs1, by simp⟩
  · exact ⟨ramp_up hl (fle_zero_stageStep h inRange_unit_one ha hsnap) hbelow, by simp [hst], by simp [hst]⟩
  · exact ⟨hs, by simp, by simp⟩
  · obtain ⟨h0, h1⟩ := ramp_down hl hns (fle_zero_stageStep h (inRange_decaySpan h) hd hsnap) habove
    have hz : fle Lit.zero c.sustainLevel = true := (fle_iff_units (by decide) hns).mpr hs0
    exact ⟨by simpa [inRange] using ⟨fle_trans hz h0, h1⟩, fun _ => h0, by simp [hst]⟩
  · exact ⟨inRange_unit_zero, by simp, by simp⟩
  · obtain ⟨h0, h1⟩ := ramp_down hl (by decide) (fle_zero_stageStep h inRange_unit_one hr hsnap) habove
    exact ⟨by simpa [inRange] using ⟨h0, h1⟩, by simp [hst], by simp [hst]⟩

end Envelope

/-! One voice. -/

/-- The bounds of one voice: level, phase, increment, gain, transient, filter memory. -/
def VoiceOk (c : Config) (v : Voice) : Prop :=
  LevelOk c v ∧ (inUnitInterval v.phase = true ∧ incOk v.inc = true) ∧ VoiceBounds v

/-- An envelope step writes at most the active bit, the stage and the level (R120). -/
theorem envStep_voice (c : Config) (v : Voice) :
    ∃ b st l, envStep c v = { v with active := b, stage := st, level := l } := by
  rcases envStep_cases c v with he | ⟨-, he⟩ | ⟨-, -, -, he⟩ | ⟨-, he⟩ | ⟨-, -, -, he⟩ | ⟨-, he⟩ | ⟨-, -, -, he⟩
  · exact ⟨v.active, v.stage, v.level, he⟩
  all_goals exact ⟨_, _, _, he⟩

theorem voiceOk_envStep {c : Config} {v : Voice} (h : c.wf = true) (hv : VoiceOk c v) : VoiceOk c (envStep c v) := by
  obtain ⟨hl, hp, hb⟩ := hv
  have hl' := levelOk_envStep h hl
  obtain ⟨b, st, l, he⟩ := envStep_voice c v
  rw [he] at hl' ⊢
  exact ⟨hl', hp, hb⟩

/-- The phase after an advance is in `[0, 1)` again, for any finite increment (R185). -/
theorem inUnitInterval_advance {p i : F32} (hp : inUnitInterval p = true) (hi : incOk i = true) :
    inUnitInterval (frac (fadd p i)) = true := by
  simp only [inUnitInterval, incOk, Bool.and_eq_true] at hp hi
  obtain ⟨hp0, hp1⟩ := hp
  obtain ⟨hfi, hi0⟩ := hi
  have hnp := (not_nan_of_fle hp0).2
  have hni := not_nan_of_finite hfi
  rw [fle_zero_iff hnp] at hp0
  rw [fle_zero_iff hni] at hi0
  rw [flt_iff_units hnp (by decide), units_one] at hp1
  have hfp : isFinite p = true := (isFinite_iff_units hnp).mpr (by rw [abs_of_nonneg hp0]; omega)
  have hmax : units i ≤ magUnits 0x7F7FFFFF#32 := by
    have hb : magBits 0x7F7FFFFF#32 = 0x7F7FFFFF := by decide
    have hle := (magBits_le_iff hni (b := 0x7F7FFFFF#32) (by decide)).mp (by have := isFinite_iff.mp hfi; omega)
    unfold units
    split_ifs <;> omega
  have hr := rounds_fadd hfp hfi
  refine frac_inUnitInterval (isFinite_fadd hfp hfi (by omega)) ?_
  exact units_zero ▸ hr.ge (f := Lit.zero) (by decide) (by rw [units_zero]; omega)

theorem voiceOk_phaseAdvance {c : Config} {v : Voice} (hv : VoiceOk c v) : VoiceOk c (phaseAdvance v) := by
  obtain ⟨hl, ⟨hp, hi⟩, hb⟩ := hv
  exact ⟨hl, ⟨inUnitInterval_advance hp hi, hi⟩, hb⟩

/-- A raw sample keeps the bounds of its voice and is at most 3.0 in magnitude (R177, R188). -/
theorem rawSample_ok {c : Config} {rom : List F32} {v : Voice} (h : c.wf = true) (hrom : RomBounded rom)
    (hv : VoiceOk c v) (preset : BitVec 2) (lcg : BitVec 32) :
    VoiceOk c (rawSample c rom preset v lcg).voice ∧ magLe (rawSample c rom preset v lcg).value Lit.three = true := by
  have ⟨hl, hp, hg, ht, hf⟩ := hv
  unfold rawSample
  split
  · exact ⟨hv, magLe_mono (magLe_lookup hrom v.phase) (by decide) (by decide +kernel)⟩
  · exact ⟨hv, magLe_additive hrom _⟩
  · have ht' : inRange (fmul v.transient Lit.c0p9992) Lit.zero Lit.one = true := inRange_unit_fmul ht (by decide)
    exact ⟨⟨hl, hp, hg, ht', hf⟩,
      magLe_fadd (magLe_electricStack hrom _) (magLe_noise _ (magLe_of_inRange ht')) (by decide +kernel)⟩
  · obtain ⟨ha0, ha1⟩ := wf_padAlpha h
    have hf' := magLe_padFilter ha0 ha1 hf (magLe_padInput hrom v.phase)
    exact ⟨⟨hl, hp, hg, ht, hf'⟩, magLe_mono hf' (by decide) (by decide +kernel)⟩

/-- Level and velocity gain, both in `[0, 1]`, do not raise a sample (R184). -/
theorem magLe_scaled {c : Config} {v : Voice} {raw : F32} (hv : VoiceOk c v) (hraw : magLe raw Lit.three = true) :
    magLe (scaled v raw) Lit.three = true := by
  obtain ⟨⟨hl, -, -⟩, -, hg, -, -⟩ := hv
  exact magLe_fmul_one hraw (magLe_of_inRange (inRange_unit_fmul hl hg)) (by decide)

/-- A voice's frame keeps its bounds, and its contribution, if any, is at most 3.0 in magnitude (R187). -/
theorem voiceFrame_ok {c : Config} {rom : List F32} {v : Voice} (h : c.wf = true) (hrom : RomBounded rom)
    (hv : VoiceOk c v) (preset : BitVec 2) (lcg : BitVec 32) :
    VoiceOk c (voiceFrame c rom preset v lcg).voice ∧
      ∀ x ∈ (voiceFrame c rom preset v lcg).sample, magLe x Lit.three = true := by
  have he := voiceOk_envStep h hv
  rcases voiceFrame_cases c rom preset v lcg with ⟨-, hf⟩ | ⟨-, -, hf⟩ | ⟨-, -, hf⟩ <;> rw [hf]
  · exact ⟨hv, by simp⟩
  · exact ⟨he, by simp⟩
  · obtain ⟨hr, hval⟩ := rawSample_ok h hrom he preset lcg
    refine ⟨voiceOk_phaseAdvance hr, fun x hx => ?_⟩
    obtain rfl : _ = x := Option.some.inj hx
    exact magLe_scaled hr hval

/-! The voice sum (R206). -/

/-- A legal build, a conforming table, and every voice within its bounds: what the voice sum needs, and keeps. -/
def SourcesOk (s : State) : Prop :=
  s.cfg.wf = true ∧ RomBounded s.rom ∧ ∀ i : Fin 8, VoiceOk s.cfg (s.voice i)

/-- The bound of the sum of `k` contributions: `3 k`. -/
def sumBound (k : Nat) : F32 := i2f (3 * k)

theorem sourcesOk_addVoice {p : Sum} (h : SourcesOk p.state) (i : Fin 8) : SourcesOk (addVoice p i).state := by
  obtain ⟨hwf, hrom, hv⟩ := h
  refine ⟨hwf, hrom, fun j => ?_⟩
  rw [addVoice_voice]
  split_ifs with hij
  · obtain ⟨hf, -⟩ := voiceFrame_ok hwf hrom (hv i) p.state.preset p.state.lcg
    exact hf
  · exact hv j

theorem magLe_addVoice {p : Sum} (h : SourcesOk p.state) (i : Fin 8) {k : Nat} (hk : k < 8)
    (hsum : magLe p.sum (sumBound k) = true) : magLe (addVoice p i).sum (sumBound (k + 1)) = true := by
  have hstep : ∀ n < 8, isFinite (sumBound n) = true ∧ isFinite Lit.three = true ∧ isNan (sumBound (n + 1)) = false ∧
      units (sumBound n) + units Lit.three ≤ units (sumBound (n + 1)) := by decide +kernel
  have hs := hstep k hk
  obtain ⟨hwf, hrom, hv⟩ := h
  obtain ⟨-, hx⟩ := voiceFrame_ok hwf hrom (hv i) p.state.preset p.state.lcg
  simp only [addVoice]
  cases hr : (voiceFrame p.state.cfg p.state.rom p.state.preset (p.state.voice i) p.state.lcg).sample with
  | none =>
    obtain ⟨-, -, hn, hle⟩ := hs
    have h3 : 0 ≤ units Lit.three := by decide +kernel
    exact magLe_mono hsum hn (by omega)
  | some x => exact magLe_fadd hsum (hx x hr) hs

/-- A partial sum over the slots of `l`, after `k` voices. -/
theorem foldl_addVoice_ok (l : List (Fin 8)) (p : Sum) (k : Nat) (hk : k + l.length ≤ 8) (h : SourcesOk p.state)
    (hsum : magLe p.sum (sumBound k) = true) :
    SourcesOk (l.foldl addVoice p).state ∧ magLe (l.foldl addVoice p).sum (sumBound (k + l.length)) = true := by
  induction l generalizing p k with
  | nil => exact ⟨h, hsum⟩
  | cons i l ih =>
    rw [List.length_cons] at hk ⊢
    have := ih (addVoice p i) (k + 1) (by omega) (sourcesOk_addVoice h i) (magLe_addVoice h i (by omega) hsum)
    rwa [Nat.add_assoc, Nat.add_comm 1] at this

/-- `VoiceSum` keeps the voices within their bounds, and the sum is at most 24 in magnitude (R188, R206). -/
theorem voiceSum_ok {s : State} (h : SourcesOk s) :
    SourcesOk (voiceSum s).state ∧ magLe (voiceSum s).sum (sumBound 8) = true :=
  have h0 : magLe Lit.zero (sumBound 0) = true := by decide
  foldl_addVoice_ok slots { sum := Lit.zero, state := s } 0 (by decide) h h0

/-! The mix and the echo (R195, R200, R207). -/

/-- 9.0, a bound of the mixed sample. -/
def c9 : F32 := 0x41100000#32

/-- 55.0, a bound of the fed-back cell. -/
def c55 : F32 := 0x425C0000#32

/-- Every listed echo cell is at most 64 in magnitude (R200). -/
def CellsOk (m : EchoRam) : Prop := ∀ c ∈ m, magLe c.2 Lit.c64 = true

theorem magLe_mixed {s : State} {sum : F32} (hg : inRange s.masterGain Lit.zero Lit.one = true)
    (hsum : magLe sum (sumBound 8) = true) : magLe (mixed s sum) c9 = true := by
  have hn : magLe (fmul sum normFactor) c9 = true := magLe_fmul hsum (B := normFactor) (by decide) (by decide +kernel)
  exact magLe_fmul_one hn (magLe_of_inRange hg) (by decide)

theorem CellsOk.read {m : EchoRam} (h : CellsOk m) (k : Nat) : magLe (EchoRam.read m k) Lit.c64 = true := by
  induction m with
  | nil => exact (by decide : magLe 0#32 Lit.c64 = true)
  | cons d m ih =>
    obtain ⟨hd, hm⟩ := List.forall_mem_cons.mp h
    rw [EchoRam.read_cons]
    split_ifs
    · exact hd
    · exact ih hm

theorem CellsOk.write {m : EchoRam} (h : CellsOk m) (k : Nat) {x : F32} (hx : magLe x Lit.c64 = true) :
    CellsOk (EchoRam.write m k x) := by
  intro c hc
  rcases EchoRam.mem_write hc with hm | rfl
  · exact h c hm
  · exact hx

/-- What the echo writes back is again at most 64 in magnitude: the feedback is at most 0.85 (R200). -/
theorem magLe_echoY {s : State} {x : F32} (hfb : inRange s.echoFb Lit.zero Lit.c0p85 = true) (hm : CellsOk s.echoRam)
    (hx : magLe x c9 = true) : magLe (echoY s x) Lit.c64 = true := by
  have hd : magLe (fmul s.echoFb (EchoRam.read s.echoRam s.echoIdx)) c55 = true :=
    magLe_fmul (magLe_of_inRange hfb) (hm.read _) (by decide +kernel)
  exact magLe_fadd hx hd (by decide +kernel)

theorem cellsOk_echoNext {s : State} {x : F32} (hfb : inRange s.echoFb Lit.zero Lit.c0p85 = true)
    (hm : CellsOk s.echoRam) (hx : magLe x c9 = true) : CellsOk (echoNext s x).echoRam := by
  unfold echoNext
  split
  · exact hm.write _ (magLe_echoY hfb hm hx)
  · exact hm

/-! The whole state. -/

theorem boundsInv_iff {s : State} : BoundsInv s ↔ SourcesOk s ∧ ParamsInv s ∧ RomInv s ∧ CellsOk s.echoRam := by
  constructor
  · rintro ⟨⟨hwf, hl⟩, ⟨-, hp⟩, hparams, hrom, hb, hm⟩
    have ⟨_, _, _, hent, _⟩ := hrom
    exact ⟨⟨hwf, hent, fun i => ⟨hl i, hp i, hb i⟩⟩, hparams, hrom, hm⟩
  · rintro ⟨⟨hwf, -, hv⟩, hparams, hrom, hm⟩
    refine ⟨⟨hwf, fun i => ?_⟩, ⟨hwf, fun i => ?_⟩, hparams, hrom, fun i => ?_, hm⟩ <;> obtain ⟨hl, hp, hb⟩ := hv i
    · exact hl
    · exact hp
    · exact hb

/-- The end of a frame keeps the bounds (R205). -/
theorem boundsInv_finishFrame {last : Bool} {p : Sum} (h : BoundsInv p.state)
    (hsum : magLe p.sum (sumBound 8) = true) : BoundsInv (finishFrame last p) := by
  obtain ⟨hsrc, hparams, hrom, hm⟩ := boundsInv_iff.mp h
  have ⟨_, hgain, _, hfb, _, _⟩ := hparams
  have hcells := cellsOk_echoNext hfb hm (magLe_mixed hgain hsum)
  unfold finishFrame
  obtain ⟨m, k, he⟩ := echoNext_state p.state (mixed p.state p.sum)
  rw [he] at hcells ⊢
  exact boundsInv_iff.mpr ⟨hsrc, hparams, hrom, hcells⟩

/-- A frame keeps the bounds (R205). -/
theorem boundsInv_frame {last : Bool} {s t : State} (ht : frame last s = .next t) (h : BoundsInv s) : BoundsInv t := by
  obtain ⟨hsrc, hparams, hrom, hm⟩ := boundsInv_iff.mp h
  obtain ⟨hsrc', hsum⟩ := voiceSum_ok hsrc
  obtain ⟨-, rfl⟩ := frame_eq_next ht
  refine boundsInv_finishFrame (boundsInv_iff.mpr ⟨hsrc', ?_⟩) hsum
  obtain ⟨vs, l, hv⟩ := voiceSum_state s
  rw [hv]
  exact ⟨hparams, hrom, hm⟩

theorem boundsInv_runFrames {n left : Nat} {s t : State} (ht : runFrames n left s = .next t) (h : BoundsInv s) :
    BoundsInv t := runFrames_induction (fun _ _ _ => boundsInv_frame) ht h

/-- A command that rewrites the voice file within the bounds keeps the bounds. -/
theorem boundsInv_voices {s : State} {vs : Vector Voice 8} (h : BoundsInv s) (hv : ∀ i : Fin 8, VoiceOk s.cfg vs[i])
    (k : BitVec 32) : BoundsInv { s with voices := vs, ageCtr := k } := by
  obtain ⟨⟨hwf, hrom', -⟩, hparams, hrom, hm⟩ := boundsInv_iff.mp h
  exact boundsInv_iff.mpr ⟨⟨hwf, hrom', hv⟩, hparams, hrom, hm⟩

/-- A note's frequency is finite and not negative (R17). -/
theorem noteFreq_bounds (note : BitVec 7) : isFinite (noteFreq note) = true ∧ 0 ≤ units (noteFreq note) := by
  have h : ∀ n : BitVec 7, isFinite (noteFreq n) = true ∧ 0 ≤ units (noteFreq n) := by decide +kernel
  exact h note

/-- The increment of a note is at most its frequency: the rate is at least 1.0 (R139). -/
theorem incOk_incOf {c : Config} (h : c.wf = true) (note : BitVec 7) : incOk (incOf c note) = true := by
  obtain ⟨hf, h0⟩ := noteFreq_bounds note
  obtain ⟨hrf, hr1⟩ := rateF32_bounds h
  have hr : Rounds (incOf c note) _ _ := rounds_fdiv hf hrf (by omega)
  have hrange : inRange (incOf c note) Lit.zero (noteFreq note) = true := by
    refine hr.inRange (by decide) (not_nan_of_finite hf) (by rw [units_zero, zero_mul]; positivity) ?_
    rw [Int.toNat_of_nonneg (by omega)]
    exact Int.mul_le_mul_of_nonneg_left hr1 h0
  have hfin := isFinite_of_magLe (magLe_of_inRange hrange) hf
  simp only [inRange, incOk, Bool.and_eq_true] at hrange ⊢
  exact ⟨hfin, hrange.1⟩

theorem inRange_velGainOf (vel : BitVec 7) : inRange (velGainOf vel) Lit.zero Lit.one = true := by
  have h127 : units Lit.c127 = 127 * 2 ^ 149 := by decide +kernel
  have := vel.isLt
  exact inRange_i2f_fdiv (by decide) (by rw [h127]; positivity) (by rw [h127]; omega)

theorem inUnitInterval_zero : inUnitInterval Lit.zero = true := by decide

theorem magLe_zero_two : magLe Lit.zero Lit.two = true := by decide

theorem voiceOk_startedVoice {c : Config} (h : c.wf = true) (note vel : BitVec 7) (age : BitVec 32) :
    VoiceOk c (startedVoice c note vel age) :=
  ⟨⟨inRange_unit_zero, by simp [startedVoice], by simp [startedVoice]⟩, ⟨inUnitInterval_zero, incOk_incOf h note⟩,
    inRange_velGainOf vel, inRange_unit_one, magLe_zero_two⟩

theorem voiceOk_toOff {c : Config} {v : Voice} (hv : VoiceOk c v) : VoiceOk c v.toOff := by
  obtain ⟨-, hp, hb⟩ := hv
  exact ⟨⟨inRange_unit_zero, by simp, by simp⟩, hp, hb⟩

theorem voiceOk_releasedVoice {c : Config} {v : Voice} (note : BitVec 7) (hv : VoiceOk c v) :
    VoiceOk c (releasedVoice note v) := by
  unfold releasedVoice
  split
  · obtain ⟨⟨hl, -, -⟩, hp, hb⟩ := hv
    exact ⟨⟨hl, by simp, by simp⟩, hp, hb⟩
  · exact hv

theorem voiceOk_reset (c : Config) : VoiceOk c Voice.reset :=
  ⟨⟨inRange_unit_zero, by simp [Voice.reset], by simp [Voice.reset]⟩, ⟨inUnitInterval_zero, by decide⟩,
    inRange_unit_zero, inRange_unit_zero, magLe_zero_two⟩

theorem boundsInv_startNote {s : State} (h : BoundsInv s) (note vel : BitVec 7) : BoundsInv (startNote note vel s) := by
  obtain ⟨⟨hwf, -, hv⟩, -⟩ := boundsInv_iff.mp h
  refine boundsInv_voices h (fun i => ?_) _
  show VoiceOk s.cfg ((s.setVoice (selectSlot s) _).voice i)
  rw [State.voice_setVoice]
  split_ifs
  · exact voiceOk_startedVoice hwf note vel _
  · exact hv i

theorem boundsInv_mapVoices {s : State} {f : Voice → Voice} (h : BoundsInv s)
    (hf : ∀ v, VoiceOk s.cfg v → VoiceOk s.cfg (f v)) : BoundsInv (s.mapVoices f) := by
  obtain ⟨⟨-, -, hv⟩, -⟩ := boundsInv_iff.mp h
  refine boundsInv_voices h (fun i => ?_) _
  show VoiceOk s.cfg ((s.mapVoices f).voice i)
  rw [State.voice_mapVoices]
  exact hf _ (hv i)

/-- The reset values meet the bounds in every legal build (R275). -/
theorem boundsInv_afterReset {s : State} (h : BoundsInv s) : BoundsInv s.afterReset := by
  obtain ⟨⟨hwf, hrom', -⟩, -, hrom, -⟩ := boundsInv_iff.mp h
  obtain ⟨hgain, hmix, hfb, hms⟩ := wf_resets hwf
  refine boundsInv_iff.mpr ⟨⟨hwf, hrom', fun i => ?_⟩, ⟨hwf, hgain, hmix, hfb, hms, rfl⟩, hrom, List.forall_mem_nil _⟩
  rw [State.voice_afterReset]
  exact voiceOk_reset _

/-- An instruction keeps the bounds: a note command voice by voice, a setter by its clamp (R154), a render frame by
frame. -/
theorem boundsInv_exec {i : Instr} {s t : State} (ht : exec i s = .next t) (h : BoundsInv s) : BoundsInv t := by
  have ⟨hlevels, hphases, ⟨hwf, hgain, hmix, hfb, hms, hlen⟩, hrest⟩ := h
  rcases exec_eq_next ht with rfl | ⟨note, vel, -, -, rfl⟩ | ⟨note, -, rfl⟩ | ⟨-, rfl⟩ | ⟨val, -, rfl⟩ | ⟨f, -, rfl⟩ |
    ⟨on, -, rfl⟩ | ⟨f, -, rfl⟩ | ⟨f, -, rfl⟩ | ⟨f, -, rfl⟩ | ⟨-, hr⟩
  · exact h
  · exact boundsInv_startNote h note vel
  · exact boundsInv_mapVoices h (fun _ => voiceOk_releasedVoice note)
  · exact boundsInv_mapVoices h (fun _ => voiceOk_toOff)
  · exact ⟨hlevels, hphases, ⟨hwf, hgain, hmix, hfb, hms, hlen⟩, hrest⟩
  · exact ⟨hlevels, hphases, ⟨hwf, inRange_clampf f (by decide), hmix, hfb, hms, hlen⟩, hrest⟩
  · exact ⟨hlevels, hphases, ⟨hwf, hgain, hmix, hfb, hms, hlen⟩, hrest⟩
  · exact ⟨hlevels, hphases, ⟨hwf, hgain, inRange_clampf f (by decide), hfb, hms, hlen⟩, hrest⟩
  · exact ⟨hlevels, hphases, ⟨hwf, hgain, hmix, inRange_clampf f (by decide), hms, hlen⟩, hrest⟩
  · exact ⟨hlevels, hphases, ⟨hwf, hgain, hmix, hfb, inRange_clampf f (by decide), rfl⟩, hrest⟩
  · exact boundsInv_runFrames hr h

/-- Settles O57, by the cases of a step: the port edge alone, the reset, an instruction, a render cut short. -/
theorem everyStepKeepsTheSignalBounds : Obligations.EveryStepKeepsTheSignalBounds := by
  intro s t h ht
  obtain ⟨p, rfl | rfl | ⟨i, hi⟩ | ⟨k, u, hu, rfl⟩⟩ := step_eq_next ht
  · exact h
  · exact boundsInv_afterReset (s := s.setPorts p) h
  · exact boundsInv_exec (s := s.setPorts p) hi h
  · exact boundsInv_afterReset (boundsInv_runFrames (s := s.setPorts p) hu h)

end Sys2Proof.SignalBounds
end

section
/-! SUPPORT. A property that the reset, every instruction but RENDER, and one frame keep is kept by every step
(`step_induction`). What each of these writes of the voice file, the age counter and the build, and from it the same
rule slot by slot (`SlotRule`). -/

namespace Sys2Proof.StepRules

open Sys2Proof.Machine

/-- An invariant of a step from what the ports accept (R6): the reset, an instruction, or a run of frames, which it
is enough to check for one frame. -/
theorem step_induction {P : State → Prop} {s t : State} (ports : ∀ u p, P u → P (u.setPorts p))
    (reset : ∀ u, P u → P u.afterReset)
    (instr : ∀ i u v, i ≠ .render → exec i u = .next v → P u → P v)
    (oneFrame : ∀ last u v, frame last u = .next v → P u → P v) (ht : step s = .next t) (hs : P s) : P t := by
  obtain ⟨p, rfl | rfl | ⟨i, hi⟩ | ⟨k, u, hu, rfl⟩⟩ := step_eq_next ht
  · exact ports s p hs
  · exact reset _ (ports s p hs)
  · by_cases hr : i = .render
    · subst hr
      exact runFrames_induction oneFrame hi (ports s p hs)
    · exact instr i _ t hr hi (ports s p hs)
  · exact reset _ (runFrames_induction oneFrame hu (ports s p hs))

/-! The build and the sine ROM. -/

/-- No command writes the ROM or the build (R49, R74). -/
theorem exec_rom_cfg {i : Instr} {s t : State} (hi : i ≠ .render) (h : exec i s = .next t) :
    t.rom = s.rom ∧ t.cfg = s.cfg := by
  rcases exec_eq_next h with rfl | ⟨_, _, -, -, rfl⟩ | ⟨_, -, rfl⟩ | ⟨-, rfl⟩ | ⟨_, -, rfl⟩ | ⟨_, -, rfl⟩ | ⟨_, -, rfl⟩ |
    ⟨_, -, rfl⟩ | ⟨_, -, rfl⟩ | ⟨_, -, rfl⟩ | ⟨hr, -⟩
  any_goals exact ⟨rfl, rfl⟩
  exact absurd hr hi

/-- No frame writes the ROM, the build or the age counter (R205). -/
theorem frame_rom_cfg_ageCtr {last : Bool} {s t : State} (h : frame last s = .next t) :
    t.rom = s.rom ∧ t.cfg = s.cfg ∧ t.ageCtr = s.ageCtr := by
  obtain ⟨vs, l, m, k, w, rfl⟩ := frame_state h
  exact ⟨rfl, rfl, rfl⟩

/-! The voice file and the age counter. -/

/-- NOTE_ON writes the selected slot only (R140). -/
theorem startNote_voice (note vel : BitVec 7) (s : State) (i : Fin 8) :
    (startNote note vel s).voice i =
      if selectSlot s = i then startedVoice s.cfg note vel s.ageCtr else s.voice i := by
  simp [startNote, State.voice_setVoice]

@[simp] theorem startNote_ageCtr (note vel : BitVec 7) (s : State) :
    (startNote note vel s).ageCtr = s.ageCtr + 1#32 := rfl

/-- NOTE_OFF leaves a slot alone, or releases an active one (R145). -/
theorem releasedVoice_cases (note : BitVec 7) (v : Voice) :
    releasedVoice note v = v ∨ (v.active = true ∧ releasedVoice note v = v.toRelease) := by
  unfold releasedVoice
  split_ifs with h
  · simp only [Voice.holds, Bool.and_eq_true] at h
    exact Or.inr ⟨h.1, rfl⟩
  · exact Or.inl rfl

/-- The commands by what they do to the voice file and the age counter: nothing, a note on, one function on every
slot (R140, R145, R147). -/
theorem exec_voices {i : Instr} {s t : State} (hi : i ≠ .render) (h : exec i s = .next t) :
    ((∀ j : Fin 8, t.voice j = s.voice j) ∧ t.ageCtr = s.ageCtr) ∨
      (∃ note vel, s.ageCtr ≠ 0xFFFFFFFF#32 ∧ t = startNote note vel s) ∨
      (∃ note, t = s.mapVoices (releasedVoice note)) ∨ t = s.mapVoices Voice.toOff := by
  rcases exec_eq_next h with rfl | ⟨note, vel, -, hc, ht⟩ | ⟨note, -, ht⟩ | ⟨-, ht⟩ | ⟨_, -, rfl⟩ | ⟨_, -, rfl⟩ |
    ⟨_, -, rfl⟩ | ⟨_, -, rfl⟩ | ⟨_, -, rfl⟩ | ⟨_, -, rfl⟩ | ⟨hr, -⟩
  any_goals exact Or.inl ⟨fun _ => rfl, rfl⟩
  · exact Or.inr (Or.inl ⟨note, vel, hc, ht⟩)
  · exact Or.inr (Or.inr (Or.inl ⟨note, ht⟩))
  · exact Or.inr (Or.inr (Or.inr ht))
  · exact absurd hr hi

/-- The end of a frame does not write the voice file (R205). -/
theorem finishFrame_voice (last : Bool) (p : Sum) (i : Fin 8) :
    (finishFrame last p).voice i = p.state.voice i := by
  obtain ⟨m, k, he⟩ := echoNext_state p.state (mixed p.state p.sum)
  rw [finishFrame, he]
  rfl

/-- A frame runs the voice frame of every slot (R205, R206). -/
theorem frame_voice {last : Bool} {s t : State} (h : frame last s = .next t) (i : Fin 8) :
    ∃ lcg, t.voice i = (voiceFrame s.cfg s.rom s.preset (s.voice i) lcg).voice := by
  obtain ⟨-, rfl⟩ := frame_eq_next h
  rw [finishFrame_voice]
  exact voiceSum_voice s i

/-- A property of one slot in build `c` that every write of a slot keeps: the reset (R275), NOTE_ON (R140), NOTE_OFF
(R145), ALL_NOTES_OFF (R147), an envelope step of an active voice (R122), the rest of a sounded frame (R187). -/
structure SlotRule (c : Config) (Q : Voice → Prop) : Prop where
  reset : Q Voice.reset
  started : ∀ note vel age, Q (startedVoice c note vel age)
  release : ∀ v, v.active = true → Q v → Q v.toRelease
  off : ∀ v, Q v → Q v.toOff
  envelope : ∀ v, v.active = true → Q v → Q (envStep c v)
  sounded : ∀ v t f, Q v → Q { v with transient := t, filt := f, phase := frac (fadd v.phase v.inc) }

namespace SlotRule

variable {c : Config} {Q : Voice → Prop}

theorem kept_voiceFrame (h : SlotRule c Q) (rom : List F32) (preset : BitVec 2) {v : Voice} (lcg : BitVec 32) (hv : Q v) :
    Q (voiceFrame c rom preset v lcg).voice := by
  rcases voiceFrame_cases c rom preset v lcg with ⟨-, hf⟩ | ⟨ha, -, hf⟩ | ⟨ha, -, hf⟩ <;> rw [hf]
  · exact hv
  · exact h.envelope v ha hv
  · obtain ⟨t, f, hs⟩ := soundVoice_voice c rom preset (envStep c v) lcg
    rw [hs]
    exact h.sounded _ t f (h.envelope v ha hv)

theorem kept_exec {i : Instr} {s t : State} (h : SlotRule s.cfg Q) (hi : i ≠ .render) (ht : exec i s = .next t)
    (hv : ∀ j : Fin 8, Q (s.voice j)) (j : Fin 8) : Q (t.voice j) := by
  obtain ⟨hsame, -⟩ | ⟨note, vel, -, rfl⟩ | ⟨note, rfl⟩ | rfl := exec_voices hi ht
  · rw [hsame]
    exact hv j
  · rw [startNote_voice]
    split_ifs
    · exact h.started note vel _
    · exact hv j
  · rw [State.voice_mapVoices]
    obtain hr | ⟨ha, hr⟩ := releasedVoice_cases note (s.voice j) <;> rw [hr]
    · exact hv j
    · exact h.release _ ha (hv j)
  · rw [State.voice_mapVoices]
    exact h.off _ (hv j)

/-- What every write of a slot keeps, every step keeps on every slot. -/
theorem kept_step {s t : State} (h : SlotRule s.cfg Q) (ht : step s = .next t) (hv : ∀ j : Fin 8, Q (s.voice j)) :
    t.cfg = s.cfg ∧ ∀ j : Fin 8, Q (t.voice j) := by
  refine step_induction (P := fun u => u.cfg = s.cfg ∧ ∀ j : Fin 8, Q (u.voice j)) ?ports ?reset ?instr ?oneFrame ht
    ⟨rfl, hv⟩
  case ports => exact fun u p hu => hu
  case reset =>
    refine fun u hu => ⟨hu.1, fun j => ?_⟩
    rw [State.voice_afterReset]
    exact h.reset
  case instr =>
    rintro i u v hi hx ⟨hc, hu⟩
    obtain ⟨-, hc'⟩ := exec_rom_cfg hi hx
    exact ⟨hc'.trans hc, (hc ▸ h : SlotRule u.cfg Q).kept_exec hi hx hu⟩
  case oneFrame =>
    rintro last u v hx ⟨hc, hu⟩
    obtain ⟨-, hc', -⟩ := frame_rom_cfg_ageCtr hx
    refine ⟨hc'.trans hc, fun j => ?_⟩
    obtain ⟨lcg, hj⟩ := frame_voice hx j
    rw [hj, hc]
    exact h.kept_voiceFrame _ _ lcg (hu j)

end SlotRule

end Sys2Proof.StepRules
end

section
/-! SUPPORT. The state invariants of rule R55, one step each, and what the bounds say of every F32. -/

namespace Sys2Proof.StateInvariants

open Sys2Proof.Machine Sys2Proof.Rounding Sys2Proof.SignalBounds Sys2Proof.StepRules

/-! Items 1 to 3: slot by slot. -/

/-- R55 item 1 and the second half of item 2, for one slot. -/
def ActiveOk (v : Voice) : Prop := (v.active = true ↔ v.stage ≠ .off) ∧ (v.stage = .off → v.level = 0#32)

/-- An active voice is in some stage but Off, and an envelope step moves it to such a stage, or Off for good (R120). -/
theorem activeOk_envStep (c : Config) {v : Voice} (ha : v.active = true) (hv : ActiveOk v) :
    ActiveOk (envStep c v) := by
  rcases envStep_cases c v with he | ⟨-, he⟩ | ⟨hst, -, -, he⟩ | ⟨-, he⟩ | ⟨hst, -, -, he⟩ | ⟨-, he⟩ | ⟨hst, -, -, he⟩ <;>
    rw [he]
  · exact hv
  · exact ⟨by simp [ha], by simp⟩
  · exact ⟨by simp [ha, hst], by simp [hst]⟩
  · exact ⟨by simp [ha], by simp⟩
  · exact ⟨by simp [ha, hst], by simp [hst]⟩
  · exact ⟨by simp, fun _ => rfl⟩
  · exact ⟨by simp [ha, hst], by simp [hst]⟩

theorem slotRule_activeOk (c : Config) : SlotRule c ActiveOk where
  reset := ⟨by simp [Voice.reset], fun _ => rfl⟩
  started _ _ _ := ⟨by simp [startedVoice], fun _ => rfl⟩
  release v ha _ := ⟨by simp [ha], by simp⟩
  off v _ := ⟨by simp, fun _ => rfl⟩
  envelope _ ha hv := activeOk_envStep c ha hv
  sounded _ _ _ hv := hv

/-- Settles O51: each write of a slot keeps the active bit and the stage together. -/
theorem everyStepKeepsActiveAndStageTogether : Obligations.EveryStepKeepsActiveAndStageTogether := by
  intro s t hs ht
  obtain ⟨-, hv⟩ := (slotRule_activeOk s.cfg).kept_step ht hs
  exact hv

theorem slotRule_levelOk {c : Config} (h : c.wf = true) : SlotRule c (LevelOk c) where
  reset := ⟨inRange_unit_zero, by simp [Voice.reset], by simp [Voice.reset]⟩
  started _ _ _ := ⟨inRange_unit_zero, by simp [startedVoice], by simp [startedVoice]⟩
  release _ _ hv := ⟨hv.1, by simp, by simp⟩
  off _ _ := ⟨inRange_unit_zero, by simp, by simp⟩
  envelope _ _ hv := levelOk_envStep h hv
  sounded _ _ _ hv := hv

/-- Settles O52: each write of a slot keeps the level in range, the envelope step by `levelOk_envStep`. -/
theorem everyStepKeepsLevelsInUnit : Obligations.EveryStepKeepsLevelsInUnit := by
  rintro s t ⟨hwf, hl⟩ ht
  obtain ⟨hc, hl'⟩ := (slotRule_levelOk hwf).kept_step ht hl
  rw [LevelsInv, hc]
  exact ⟨hwf, hl'⟩

/-- R55 item 3, for one slot. -/
def PhaseOk (v : Voice) : Prop := inUnitInterval v.phase = true ∧ incOk v.inc = true

theorem phaseOk_envStep (c : Config) {v : Voice} (hv : PhaseOk v) : PhaseOk (envStep c v) := by
  obtain ⟨b, st, l, he⟩ := envStep_voice c v
  rw [he]
  exact hv

theorem slotRule_phaseOk {c : Config} (h : c.wf = true) : SlotRule c PhaseOk where
  reset := ⟨inUnitInterval_zero, by decide⟩
  started note _ _ := ⟨inUnitInterval_zero, incOk_incOf h note⟩
  release _ _ hv := hv
  off _ hv := hv
  envelope _ _ hv := phaseOk_envStep c hv
  sounded _ _ _ hv := ⟨inUnitInterval_advance hv.1 hv.2, hv.2⟩

/-- Settles O53: only the phase advance writes a phase of a sounding voice, and it stays below one. -/
theorem everyStepKeepsPhasesBelowOne : Obligations.EveryStepKeepsPhasesBelowOne := by
  rintro s t ⟨hwf, hp⟩ ht
  obtain ⟨hc, hp'⟩ := (slotRule_phaseOk hwf).kept_step ht hp
  rw [PhasesInv, hc]
  exact ⟨hwf, hp'⟩

/-! Item 4: the ages. -/

/-- Where no slot becomes active and no active slot's age changes, the ages stay distinct and below the counter. -/
theorem agesInv_of_active {s t : State} (hc : t.ageCtr = s.ageCtr)
    (hv : ∀ i : Fin 8, (t.voice i).active = true → (s.voice i).active = true ∧ (t.voice i).age = (s.voice i).age)
    (h : AgesInv s) : AgesInv t := by
  obtain ⟨hlt, hne⟩ := h
  refine ⟨fun i hi => ?_, fun i j hij hi hj => ?_⟩
  · obtain ⟨ha, hage⟩ := hv i hi
    rw [hage, hc]
    exact hlt i ha
  · obtain ⟨hai, hagei⟩ := hv i hi
    obtain ⟨haj, hagej⟩ := hv j hj
    rw [hagei, hagej]
    exact hne i j hij hai haj

/-- A voice frame starts no voice and writes no age (R187). -/
theorem voiceFrame_active_age (c : Config) (rom : List F32) (preset : BitVec 2) (v : Voice) (lcg : BitVec 32)
    (h : (voiceFrame c rom preset v lcg).voice.active = true) :
    v.active = true ∧ (voiceFrame c rom preset v lcg).voice.age = v.age := by
  obtain ⟨b, st, l, he⟩ := envStep_voice c v
  rcases voiceFrame_cases c rom preset v lcg with ⟨-, hf⟩ | ⟨ha, -, hf⟩ | ⟨ha, -, hf⟩ <;> rw [hf] at h ⊢
  · exact ⟨h, rfl⟩
  · exact ⟨ha, by rw [he]⟩
  · obtain ⟨t, f, hs⟩ := soundVoice_voice c rom preset (envStep c v) lcg
    exact ⟨ha, by rw [hs, he]⟩

/-- NOTE_ON gives the slot it takes the counter as its age, above the age of every other active slot, and the counter
moves past it without wrapping (R47, R140). -/
theorem agesInv_startNote {s : State} (note vel : BitVec 7) (hc : s.ageCtr ≠ 0xFFFFFFFF#32) (h : AgesInv s) :
    AgesInv (startNote note vel s) := by
  obtain ⟨hlt, hne⟩ := h
  have hctr : (s.ageCtr + 1#32).toNat = s.ageCtr.toNat + 1 := by bv_omega
  have hnew : ∀ i : Fin 8, (s.voice i).active = true → (s.voice i).age ≠ s.ageCtr := by
    intro i hi he
    exact absurd (hlt i hi) (by simp [he])
  refine ⟨fun i hi => ?_, fun i j hij hi hj => ?_⟩
  · rw [startNote_voice] at hi ⊢
    rw [startNote_ageCtr, hctr]
    split_ifs at hi ⊢
    · exact Nat.lt_succ_self _
    · exact (hlt i hi).trans (Nat.lt_succ_self _)
  · rw [startNote_voice] at hi hj ⊢
    rw [startNote_voice]
    split_ifs at hi hj ⊢ with hsi hsj hsj
    · exact absurd (hsi.symm.trans hsj) hij
    · exact (hnew j hj).symm
    · exact hnew i hi
    · exact hne i j hij hi hj

theorem agesInv_exec {i : Instr} {s t : State} (hi : i ≠ .render) (ht : exec i s = .next t) (h : AgesInv s) :
    AgesInv t := by
  obtain ⟨hsame, hc⟩ | ⟨note, vel, hc, rfl⟩ | ⟨note, rfl⟩ | rfl := exec_voices hi ht
  · exact agesInv_of_active hc (fun j hj => by rw [hsame] at hj ⊢; exact ⟨hj, rfl⟩) h
  · exact agesInv_startNote note vel hc h
  · refine agesInv_of_active (s := s) rfl (fun j hj => ?_) h
    rw [State.voice_mapVoices] at hj ⊢
    obtain hr | ⟨ha, hr⟩ := releasedVoice_cases note (s.voice j) <;> rw [hr] at hj ⊢
    · exact ⟨hj, rfl⟩
    · exact ⟨ha, rfl⟩
  · exact agesInv_of_active (s := s) rfl (fun j hj => by simp at hj) h

theorem agesInv_frame {last : Bool} {s t : State} (ht : frame last s = .next t) (h : AgesInv s) : AgesInv t := by
  obtain ⟨-, -, hc⟩ := frame_rom_cfg_ageCtr ht
  refine agesInv_of_active hc (fun j hj => ?_) h
  obtain ⟨lcg, hv⟩ := frame_voice ht j
  rw [hv] at hj ⊢
  exact voiceFrame_active_age _ _ _ _ _ hj

/-- After a reset no voice is active (R275). -/
theorem agesInv_afterReset (s : State) : AgesInv s.afterReset := by
  have hoff : ∀ i : Fin 8, ¬ (s.afterReset.voice i).active = true := fun i => by simp [Voice.reset]
  exact ⟨fun i hi => absurd hi (hoff i), fun i _ _ hi => absurd hi (hoff i)⟩

/-- Settles O54: only NOTE_ON starts a voice, and it takes the counter as its age. -/
theorem everyStepKeepsAgesDistinct : Obligations.EveryStepKeepsAgesDistinct := fun _ _ hs ht =>
  step_induction (fun _ _ h => h) (fun u _ => agesInv_afterReset u) (fun _ _ _ => agesInv_exec)
    (fun _ _ _ => agesInv_frame) ht hs

/-! Items 5 and 6: the echo registers and the parameters. -/

/-- A length of the echo line lies in `1 .. ECHO_CAP - 1` (R197). -/
theorem echoLenOf_bounds {c : Config} (h : 2 ≤ c.echoCap) (ms : F32) :
    1 ≤ echoLenOf c ms ∧ echoLenOf c ms ≤ c.echoCap - 1 := by
  unfold echoLenOf clampi
  omega

/-- The index stays below the length, wrapping to 0 (R195). -/
theorem echoNextIdx_lt {s : State} (h : 1 ≤ s.echoLen) : echoNextIdx s < s.echoLen := by
  unfold echoNextIdx
  split_ifs <;> omega

theorem echoNext_echoIdx (s : State) (x : F32) :
    (echoNext s x).echoIdx = if s.echoOn then echoNextIdx s else s.echoIdx := by
  unfold echoNext
  split_ifs <;> rfl

/-- The index after a frame is the one before or its successor on the line (R195, R196). -/
theorem frame_echoIdx {last : Bool} {s t : State} (h : frame last s = .next t) :
    t.echoIdx = if s.echoOn then echoNextIdx s else s.echoIdx := by
  obtain ⟨-, rfl⟩ := frame_eq_next h
  obtain ⟨vs, l, hv⟩ := voiceSum_state s
  rw [finishFrame, State.emit_echoIdx, echoNext_echoIdx, hv]
  rfl

/-- What a step keeps of the echo registers and the parameters (R55 items 5 and 6). -/
def RegistersOk (s : State) : Prop := EchoIndexInv s ∧ ParamsInv s

theorem registersOk_afterReset {s : State} (h : RegistersOk s) : RegistersOk s.afterReset := by
  obtain ⟨⟨hcap, -⟩, hwf, -⟩ := h
  obtain ⟨hgain, hmix, hfb, hms⟩ := wf_resets hwf
  obtain ⟨hlo, hhi⟩ := echoLenOf_bounds hcap s.cfg.rstEchoMs
  exact ⟨⟨hcap, hlo, hhi, hlo⟩, hwf, hgain, hmix, hfb, hms, rfl⟩

/-- SET_ECHO_MS recomputes the length and takes the index back to 0 where it would leave the line (R161). -/
theorem registersOk_setEchoTime {s : State} {ms : F32} (hms : inRange ms Lit.c30 Lit.c800 = true)
    (h : RegistersOk s) : RegistersOk (setEchoTime ms s) := by
  obtain ⟨⟨hcap, -⟩, hwf, hgain, hmix, hfb, -⟩ := h
  obtain ⟨hlo, hhi⟩ := echoLenOf_bounds hcap ms
  refine ⟨⟨hcap, hlo, hhi, ?_⟩, hwf, hgain, hmix, hfb, hms, rfl⟩
  rw [setEchoTime_echoIdx, setEchoTime_echoLen]
  split_ifs <;> omega

theorem registersOk_exec {i : Instr} {s t : State} (hi : i ≠ .render) (ht : exec i s = .next t) (h : RegistersOk s) :
    RegistersOk t := by
  have ⟨hecho, hwf, hgain, hmix, hfb, hrest⟩ := h
  rcases exec_eq_next ht with rfl | ⟨_, _, -, -, rfl⟩ | ⟨_, -, rfl⟩ | ⟨-, rfl⟩ | ⟨_, -, rfl⟩ | ⟨f, -, rfl⟩ | ⟨_, -, rfl⟩ |
    ⟨f, -, rfl⟩ | ⟨f, -, rfl⟩ | ⟨f, -, rfl⟩ | ⟨hr, -⟩
  · exact h
  · exact h
  · exact h
  · exact h
  · exact h
  · exact ⟨hecho, hwf, inRange_clampf f (by decide), hmix, hfb, hrest⟩
  · exact h
  · exact ⟨hecho, hwf, hgain, inRange_clampf f (by decide), hfb, hrest⟩
  · exact ⟨hecho, hwf, hgain, hmix, inRange_clampf f (by decide), hrest⟩
  · exact registersOk_setEchoTime (inRange_clampf f (by decide)) h
  · exact absurd hr hi

theorem registersOk_frame {last : Bool} {s t : State} (ht : frame last s = .next t) (h : RegistersOk s) :
    RegistersOk t := by
  obtain ⟨⟨hcap, hlo, hhi, hidx⟩, hparams⟩ := h
  have hidx' : t.echoIdx < s.echoLen := by
    rw [frame_echoIdx ht]
    split_ifs
    · exact echoNextIdx_lt hlo
    · exact hidx
  obtain ⟨vs, l, m, k, w, rfl⟩ := frame_state ht
  exact ⟨⟨hcap, hlo, hhi, hidx'⟩, hparams⟩

/-- Settles O55: a setter clamps, SET_ECHO_MS and the reset recompute the length, and a frame wraps the index at it. -/
theorem everyStepKeepsParametersLegal : Obligations.EveryStepKeepsParametersLegal := fun _ _ hs ht =>
  step_induction (P := RegistersOk) (fun _ _ h => h) (fun _ => registersOk_afterReset)
    (fun _ _ _ => registersOk_exec) (fun _ _ _ => registersOk_frame) ht hs

/-! Item 7: within the bounds every F32 is finite. -/

/-- Between two finite values lie finite values. -/
theorem isFinite_of_inRange {x lo hi : F32} (h : inRange x lo hi = true) (hlo : isFinite lo = true)
    (hhi : isFinite hi = true) : isFinite x = true := by
  obtain ⟨hnlo, hnx, hnhi, h0, h1⟩ := inRange_iff.mp h
  rw [isFinite_iff_units hnlo, abs_lt] at hlo
  rw [isFinite_iff_units hnhi, abs_lt] at hhi
  rw [isFinite_iff_units hnx, abs_lt]
  exact ⟨hlo.1.trans_le h0, h1.trans_lt hhi.2⟩

theorem isFinite_of_inUnitInterval {p : F32} (h : inUnitInterval p = true) : isFinite p = true := by
  simp only [inUnitInterval, Bool.and_eq_true] at h
  obtain ⟨h0, h1⟩ := h
  obtain ⟨hn, hn1, hk⟩ := flt_iff.mp h1
  have hrange : inRange p Lit.zero Lit.one = true := by
    simp only [inRange, Bool.and_eq_true]
    exact ⟨h0, fle_iff.mpr ⟨hn, hn1, hk.le⟩⟩
  exact isFinite_of_unit hrange

theorem voiceFinite_of_voiceOk {c : Config} {v : Voice} (h : VoiceOk c v) : VoiceFinite v := by
  obtain ⟨⟨hl, -, -⟩, ⟨hp, hi⟩, hg, ht, hf⟩ := h
  simp only [incOk, Bool.and_eq_true] at hi
  exact ⟨isFinite_of_inUnitInterval hp, hi.1, isFinite_of_unit hl, isFinite_of_unit hg, isFinite_of_unit ht,
    isFinite_of_magLe hf (by decide)⟩

/-- Settles O58: each F32 element lies between two finite bounds. -/
theorem boundedStatesAreFinite : Obligations.BoundedStatesAreFinite := by
  intro s h
  obtain ⟨⟨-, hrom, hv⟩, ⟨-, hgain, hmix, hfb, hms, -⟩, -, hm⟩ := boundsInv_iff.mp h
  refine ⟨fun i => voiceFinite_of_voiceOk (hv i), isFinite_of_unit hgain, isFinite_of_unit hmix,
    isFinite_of_inRange hfb (by decide) (by decide), isFinite_of_inRange hms (by decide) (by decide),
    fun x hx => ?_, fun k => isFinite_of_magLe (hm.read k) (by decide)⟩
  exact isFinite_of_magLe (List.all_eq_true.mp hrom x hx) (by decide)

/-! What no step writes, and where a note is refused. -/

/-- Settles O59: the reset, each command and each frame leave the ROM and the build. -/
theorem noStepChangesRomOrBuild : Obligations.NoStepChangesRomOrBuild := by
  intro s t ht
  refine step_induction (P := fun u => u.rom = s.rom ∧ u.cfg = s.cfg) (fun _ _ h => h) (fun _ h => h) ?instr ?oneFrame ht
    ⟨rfl, rfl⟩
  case instr =>
    rintro i u v hi hx ⟨hr, hc⟩
    obtain ⟨hr', hc'⟩ := exec_rom_cfg hi hx
    exact ⟨hr'.trans hr, hc'.trans hc⟩
  case oneFrame =>
    rintro last u v hx ⟨hr, hc⟩
    obtain ⟨hr', hc', -⟩ := frame_rom_cfg_ageCtr hx
    exact ⟨hr'.trans hr, hc'.trans hc⟩

/-- NOTE_ON at the last age is refused (R47, R253). -/
theorem execNoteOn_last_age {s : State} (note vel : BitVec 7) (h : s.ageCtr = 0xFFFFFFFF#32) :
    execNoteOn note vel s = .refused .ageCounterExhausted := if_pos h

/-- Settles O14: NOTE_ON tests the counter before it writes anything. -/
theorem noteOnAtTheLastAgeIsRefused : Obligations.NoteOnAtTheLastAgeIsRefused :=
  fun _ note vel h => execNoteOn_last_age note vel h

end Sys2Proof.StateInvariants
end

section
/-! SUPPORT. The echo RAM and its index. No instruction but RENDER touches the memories, the output or the noise
generator; a frame writes at most the one cell the index names, which lies on the line (R50, R62, R195). -/

namespace Sys2Proof.EchoMemory

open Sys2Proof.Machine Sys2Proof.StepRules Sys2Proof.StateInvariants

/-- Settles O27: each command writes one register or the voice file; NOTE_ON counts its age, and SET_ECHO_MS writes the
three registers of the echo time. -/
theorem commandsLeaveMemoryAndOutputAlone : Obligations.CommandsLeaveMemoryAndOutputAlone := by
  intro i s t hi ht
  rcases exec_eq_next ht with rfl | ⟨note, vel, he, -, rfl⟩ | ⟨_, -, rfl⟩ | ⟨-, rfl⟩ | ⟨_, -, rfl⟩ | ⟨_, -, rfl⟩ |
    ⟨_, -, rfl⟩ | ⟨_, -, rfl⟩ | ⟨_, -, rfl⟩ | ⟨f, he, rfl⟩ | ⟨hr, -⟩
  any_goals exact ⟨rfl, rfl, rfl, rfl, rfl, rfl, fun _ => ⟨rfl, rfl, rfl⟩, fun _ => rfl⟩
  · exact ⟨rfl, rfl, rfl, rfl, rfl, rfl, fun _ => ⟨rfl, rfl, rfl⟩, fun hn => absurd he (hn note vel)⟩
  · exact ⟨rfl, rfl, rfl, rfl, rfl, rfl, fun hn => absurd he (hn f), fun _ => rfl⟩
  · exact absurd hr hi

/-! What a frame does to the echo RAM. -/

theorem echoNext_echoRam (s : State) (x : F32) :
    (echoNext s x).echoRam = if s.echoOn then EchoRam.write s.echoRam s.echoIdx (echoY s x) else s.echoRam := by
  unfold echoNext
  split_ifs <;> rfl

/-- A frame writes the cell the index names, or none (R195, R196). -/
theorem frame_echoRam {last : Bool} {s t : State} (h : frame last s = .next t) :
    t.echoRam = s.echoRam ∨ ∃ y, t.echoRam = EchoRam.write s.echoRam s.echoIdx y := by
  obtain ⟨-, rfl⟩ := frame_eq_next h
  obtain ⟨vs, l, hv⟩ := voiceSum_state s
  rw [finishFrame, State.emit_echoRam, echoNext_echoRam, hv]
  split_ifs
  · exact Or.inr ⟨_, rfl⟩
  · exact Or.inl rfl

/-! The invariants. -/

/-- What a step keeps of the echo RAM and its index (R55 item 5, R62). -/
def EchoMemoryOk (s : State) : Prop := MemoryInv s ∧ EchoIndexInv s

theorem echoMemoryOk_afterReset {s : State} (h : EchoMemoryOk s) : EchoMemoryOk s.afterReset := by
  obtain ⟨-, hcap, -⟩ := h
  obtain ⟨hlo, hhi⟩ := echoLenOf_bounds hcap s.cfg.rstEchoMs
  exact ⟨⟨EchoRam.wf_nil, fun c hc => absurd hc List.not_mem_nil⟩, hcap, hlo, hhi, hlo⟩

/-- SET_ECHO_MS takes the index back to 0 where it would leave the line (R161). -/
theorem echoIndexInv_setEchoTime {s : State} (ms : F32) (h : EchoIndexInv s) : EchoIndexInv (setEchoTime ms s) := by
  obtain ⟨hcap, -⟩ := h
  obtain ⟨hlo, hhi⟩ := echoLenOf_bounds hcap ms
  refine ⟨hcap, hlo, hhi, ?_⟩
  rw [setEchoTime_echoIdx, setEchoTime_echoLen]
  split_ifs <;> omega

theorem echoMemoryOk_exec {i : Instr} {s t : State} (hi : i ≠ .render) (ht : exec i s = .next t)
    (h : EchoMemoryOk s) : EchoMemoryOk t := by
  obtain ⟨hm, hecho⟩ := h
  by_cases hms : ∃ f, i = .setEchoMs f
  · obtain ⟨f, rfl⟩ := hms
    injection ht with ht
    subst ht
    exact ⟨hm, echoIndexInv_setEchoTime (clampMs f) hecho⟩
  · obtain ⟨hram, -, -, -, hcfg, -, hregs, -⟩ := commandsLeaveMemoryAndOutputAlone i s t hi ht
    obtain ⟨-, hlen, hidx⟩ := hregs (not_exists.mp hms)
    rw [EchoMemoryOk, MemoryInv, EchoIndexInv, hram, hcfg, hlen, hidx]
    exact ⟨hm, hecho⟩

/-- A write on the line keeps the canonical form and lists no cell off the line (R50). -/
theorem memoryInv_write {s t : State} {k : Nat} {y : F32} (hk : k < s.cfg.echoCap - 1) (hc : t.cfg = s.cfg)
    (ht : t.echoRam = EchoRam.write s.echoRam k y) (h : MemoryInv s) : MemoryInv t := by
  obtain ⟨hwf, hcells⟩ := h
  rw [MemoryInv, ht, hc]
  refine ⟨EchoRam.wf_write k y hwf, fun c hmem => ?_⟩
  rcases EchoRam.mem_write hmem with hold | rfl
  · exact hcells c hold
  · exact hk

/-- The cell the index names is on the line, so a frame lists no cell off it (R50, R195). -/
theorem memoryInv_frame {last : Bool} {s t : State} (ht : frame last s = .next t) (h : EchoMemoryOk s) :
    MemoryInv t := by
  obtain ⟨hm, -, -, hhi, hidx⟩ := h
  obtain ⟨-, hc, -⟩ := frame_rom_cfg_ageCtr ht
  rcases frame_echoRam ht with hram | ⟨y, hram⟩
  · rwa [MemoryInv, hram, hc]
  · exact memoryInv_write (hidx.trans_le hhi) hc hram hm

/-- The index stays on the line, wrapping at its length (R195). -/
theorem echoIndexInv_frame {last : Bool} {s t : State} (ht : frame last s = .next t) (h : EchoIndexInv s) :
    EchoIndexInv t := by
  obtain ⟨hcap, hlo, hhi, hidx⟩ := h
  have hidx' : t.echoIdx < s.echoLen := by
    rw [frame_echoIdx ht]
    split_ifs
    · exact echoNextIdx_lt hlo
    · exact hidx
  obtain ⟨vs, l, m, k, w, rfl⟩ := frame_state ht
  exact ⟨hcap, hlo, hhi, hidx'⟩

/-- Settles O56: a frame writes only the cell the index names, and that cell is on the line; the reset lists none. -/
theorem everyStepKeepsMemoryCanonical : Obligations.EveryStepKeepsMemoryCanonical := fun _ _ hs ht =>
  step_induction (P := EchoMemoryOk) (fun _ _ h => h) (fun _ => echoMemoryOk_afterReset)
    (fun _ _ _ => echoMemoryOk_exec) (fun _ _ _ hf h => ⟨memoryInv_frame hf h, echoIndexInv_frame hf h.2⟩) ht hs

end Sys2Proof.EchoMemory
end

section
/-! SUPPORT. The encoding. A command word is an opcode byte and an argument (R82); each field of a format is read back
from the argument it was put in, and putting it back clears the bits the format ignores (R83, R89). -/

namespace Sys2Proof.Encoding

open Sys2Proof.Machine Sys2Proof.Laws.OpcodeByte

/-! The command word and the fields of its argument. -/

/-- Every command word is its opcode byte over its argument (R82). -/
theorem commandWord_fields (w : CommandWord) : commandWord (opField w) (argField w) = w :=
  (BitVec.extractLsb'_append_extractLsb'_eq_extractLsb' (start₁ := 0) (len₁ := 32) rfl).trans
    BitVec.extractLsb'_eq_self

/-- A mask that keeps the opcode acts on the argument alone. -/
theorem commandWord_and (op : BitVec 8) (arg mask : BitVec 32) :
    commandWord op arg &&& commandWord 0xFF#8 mask = commandWord op (arg &&& mask) :=
  BitVec.and_append.trans (congrArg (commandWord · (arg &&& mask)) BitVec.and_allOnes)

theorem noteField_setWidth (note : BitVec 7) : noteField (note.setWidth 32) = note :=
  (BitVec.extractLsb'_setWidth_of_le (by decide)).trans BitVec.extractLsb'_eq_self

theorem valField_setWidth (val : BitVec 8) : valField (val.setWidth 32) = val :=
  (BitVec.extractLsb'_setWidth_of_le (by decide)).trans BitVec.extractLsb'_eq_self

theorem onField_ite (on : Bool) : onField (if on then 1#32 else 0#32) = on := by
  cases on <;> rfl

/-- `vel` lies above the bits of `note`. -/
theorem noteField_argNoteVel (note vel : BitVec 7) : noteField (argNoteVel note vel) = note := by
  ext i hi
  have h8 : i < 8 := by omega
  have h32 : i < 32 := by omega
  simp [noteField, argNoteVel, h8, h32, hi]

/-- `note` lies below the bits of `vel`. -/
theorem velField_argNoteVel (note vel : BitVec 7) : velField (argNoteVel note vel) = vel := by
  ext i hi
  have hnote : note.getLsbD (8 + i) = false := BitVec.getLsbD_of_ge _ _ (by omega)
  have h32 : 8 + i < 32 := by omega
  simp [velField, argNoteVel, hnote, h32, hi]

/-- A field of `k` bits put back at the place `s` it was read from: the argument with every other bit cleared. -/
theorem setWidth_extractLsb'_shiftLeft {n : Nat} (x : BitVec n) (s k : Nat) :
    (x.extractLsb' s k).setWidth n <<< s = x &&& (BitVec.ofNat n (2 ^ k - 1) <<< s) := by
  apply BitVec.eq_of_getLsbD_eq
  intro i hi
  by_cases hs : i < s
  · simp [hs]
  · have hplace : s + (i - s) = i := by omega
    have hlt : i - s < n := by omega
    simp only [BitVec.getLsbD_shiftLeft, BitVec.getLsbD_setWidth, BitVec.getLsbD_extractLsb', BitVec.getLsbD_and,
      BitVec.getLsbD_ofNat, Nat.testBit_two_pow_sub_one, hs, hplace, hlt, hi]
    simp [Bool.and_comm]

theorem setWidth_noteField (arg : BitVec 32) : (noteField arg).setWidth 32 = arg &&& 0x7F#32 :=
  (BitVec.shiftLeft_zero _).symm.trans (setWidth_extractLsb'_shiftLeft arg 0 7)

theorem setWidth_valField (arg : BitVec 32) : (valField arg).setWidth 32 = arg &&& 0xFF#32 :=
  (BitVec.shiftLeft_zero _).symm.trans (setWidth_extractLsb'_shiftLeft arg 0 8)

theorem ite_onField (arg : BitVec 32) : (if onField arg then 1#32 else 0#32) = arg &&& 1#32 := by
  rw [BitVec.and_one_eq_setWidth_ofBool_getLsbD, onField]
  cases arg.getLsbD 0 <;> rfl

theorem argNoteVel_fields (arg : BitVec 32) : argNoteVel (noteField arg) (velField arg) = arg &&& 0x7F7F#32 := by
  have hvel : (velField arg).setWidth 32 <<< 8 = arg &&& 0x7F00#32 := setWidth_extractLsb'_shiftLeft arg 8 7
  rw [argNoteVel, hvel, setWidth_noteField, ← BitVec.and_or_distrib_left]
  rfl

/-! The decoder on the word of each opcode (R84, R89). -/

/-- The opcodes of the ten commands (R84). -/
def commandOpcodes : List (BitVec 8) := [0x00#8, 0x01#8, 0x02#8, 0x03#8, 0x10#8, 0x11#8, 0x12#8, 0x13#8, 0x14#8, 0x15#8]

/-- An opcode outside the map is reserved whatever its argument (R86). -/
theorem decode_reserved {op : BitVec 8} (h : op ∉ commandOpcodes) (arg : BitVec 32) :
    decode (.cmd (commandWord op arg)) = .reserved op := by
  simp only [decode, decodeCommand, opField_commandWord]
  split <;> simp_all [commandOpcodes, ← BitVec.toNat_inj]

section Decoder
variable (arg : BitVec 32)

@[simp] theorem decode_nop : decode (.cmd (commandWord 0x00#8 arg)) = .instr .nop := by
  simp [decode, decodeCommand, opField_commandWord]

@[simp] theorem decode_noteOn :
    decode (.cmd (commandWord 0x01#8 arg)) = .instr (.noteOn (noteField arg) (velField arg)) := by
  simp [decode, decodeCommand, opField_commandWord, argField_commandWord]

@[simp] theorem decode_noteOff : decode (.cmd (commandWord 0x02#8 arg)) = .instr (.noteOff (noteField arg)) := by
  simp [decode, decodeCommand, opField_commandWord, argField_commandWord]

@[simp] theorem decode_allNotesOff : decode (.cmd (commandWord 0x03#8 arg)) = .instr .allNotesOff := by
  simp [decode, decodeCommand, opField_commandWord]

@[simp] theorem decode_setPreset : decode (.cmd (commandWord 0x10#8 arg)) = .instr (.setPreset (valField arg)) := by
  simp [decode, decodeCommand, opField_commandWord, argField_commandWord]

@[simp] theorem decode_setMasterGain : decode (.cmd (commandWord 0x11#8 arg)) = .instr (.setMasterGain arg) := by
  simp [decode, decodeCommand, opField_commandWord, argField_commandWord]

@[simp] theorem decode_setEchoOn : decode (.cmd (commandWord 0x12#8 arg)) = .instr (.setEchoOn (onField arg)) := by
  simp [decode, decodeCommand, opField_commandWord, argField_commandWord]

@[simp] theorem decode_setEchoMix : decode (.cmd (commandWord 0x13#8 arg)) = .instr (.setEchoMix arg) := by
  simp [decode, decodeCommand, opField_commandWord, argField_commandWord]

@[simp] theorem decode_setEchoFb : decode (.cmd (commandWord 0x14#8 arg)) = .instr (.setEchoFb arg) := by
  simp [decode, decodeCommand, opField_commandWord, argField_commandWord]

@[simp] theorem decode_setEchoMs : decode (.cmd (commandWord 0x15#8 arg)) = .instr (.setEchoMs arg) := by
  simp [decode, decodeCommand, opField_commandWord, argField_commandWord]

end Decoder

/-! Both round trips. -/

/-- Each row of the opcode map reads back the fields the encoder put into the argument (R89, R95). -/
theorem decode_encode (i : Instr) : decode (encode i) = .instr i := by
  cases i with
  | noteOn note vel => rw [encode, decode_noteOn, noteField_argNoteVel, velField_argNoteVel]
  | noteOff note => rw [encode, decode_noteOff, noteField_setWidth]
  | setPreset val => rw [encode, decode_setPreset, valField_setWidth]
  | setEchoOn on => rw [encode, decode_setEchoOn, onField_ite]
  | nop => exact decode_nop _
  | allNotesOff => exact decode_allNotesOff _
  | setMasterGain f => exact decode_setMasterGain f
  | setEchoMix f => exact decode_setEchoMix f
  | setEchoFb f => exact decode_setEchoFb f
  | setEchoMs f => exact decode_setEchoMs f
  | render => rfl
  | renderSkip => rfl

/-- Settles O1: every operand is read back from the field the encoder put it in, whatever its value. -/
theorem decodeOfEncodeIsTheInstruction : Obligations.DecodeOfEncodeIsTheInstruction :=
  fun i _ => decode_encode i

/-- Encoding an argument that keeps just the bits a format has fields in is masking the word with these bits. -/
theorem cmd_eq_and_examined {op : BitVec 8} {arg arg' mask : BitVec 32} {examined : CommandWord}
    (hx : examined = commandWord 0xFF#8 mask) (h : arg' = arg &&& mask) :
    PortWord.cmd (commandWord op arg') = .cmd (commandWord op arg &&& examined) := by
  rw [hx, commandWord_and, h]

/-- A word of the opcode map decodes to a command whose encoding clears the bits its format ignores (R89). -/
theorem decode_of_mem_commandOpcodes {op : BitVec 8} (hop : op ∈ commandOpcodes) (arg : BitVec 32) :
    ∃ i, decode (.cmd (commandWord op arg)) = .instr i ∧
      encode i = .cmd (commandWord op arg &&& examinedBits i) := by
  simp only [commandOpcodes, List.mem_cons, List.not_mem_nil, or_false] at hop
  rcases hop with rfl | rfl | rfl | rfl | rfl | rfl | rfl | rfl | rfl | rfl
  · exact ⟨_, decode_nop arg, cmd_eq_and_examined rfl BitVec.and_zero.symm⟩
  · exact ⟨_, decode_noteOn arg, cmd_eq_and_examined rfl (argNoteVel_fields arg)⟩
  · exact ⟨_, decode_noteOff arg, cmd_eq_and_examined rfl (setWidth_noteField arg)⟩
  · exact ⟨_, decode_allNotesOff arg, cmd_eq_and_examined rfl BitVec.and_zero.symm⟩
  · exact ⟨_, decode_setPreset arg, cmd_eq_and_examined rfl (setWidth_valField arg)⟩
  · exact ⟨_, decode_setMasterGain arg, cmd_eq_and_examined rfl BitVec.and_allOnes.symm⟩
  · exact ⟨_, decode_setEchoOn arg, cmd_eq_and_examined rfl (ite_onField arg)⟩
  · exact ⟨_, decode_setEchoMix arg, cmd_eq_and_examined rfl BitVec.and_allOnes.symm⟩
  · exact ⟨_, decode_setEchoFb arg, cmd_eq_and_examined rfl BitVec.and_allOnes.symm⟩
  · exact ⟨_, decode_setEchoMs arg, cmd_eq_and_examined rfl BitVec.and_allOnes.symm⟩

/-- Decode-then-encode keeps exactly the bits the block examines (R83, R89). -/
theorem encode_of_decode_eq_instr {w : CommandWord} {i : Instr} (h : decode (.cmd w) = .instr i) :
    encode i = .cmd (w &&& examinedBits i) := by
  rw [← commandWord_fields w] at h ⊢
  by_cases hop : opField w ∈ commandOpcodes
  · obtain ⟨j, hd, he⟩ := decode_of_mem_commandOpcodes hop (argField w)
    obtain rfl : j = i := Decoded.instr.inj (hd.symm.trans h)
    exact he
  · rw [decode_reserved hop] at h
    cases h

/-- Settles O2: the rows of the opcode map, and the two round trips. -/
theorem decoderFollowsTheOpcodeMap : Obligations.DecoderFollowsTheOpcodeMap :=
  ⟨fun arg => ⟨decode_nop arg, decode_noteOn arg, decode_noteOff arg, decode_allNotesOff arg, decode_setPreset arg,
      decode_setMasterGain arg, decode_setEchoOn arg, decode_setEchoMix arg, decode_setEchoFb arg,
      decode_setEchoMs arg⟩,
    fun _ arg hop => decode_reserved hop arg,
    fun i _ h => h ▸ decode_encode i,
    fun _ _ h => encode_of_decode_eq_instr h⟩

/-! The port of a word. -/

/-- Settles O4: the edge that carries one word is accepted as that word, and the word runs as it decodes. -/
theorem stepRunsThePresentedInstruction : Obligations.StepRunsThePresentedInstruction := by
  intro s w rest i hports hdecode _
  simp only [step, hports, accept_ofWord, applyEvent, runWord, hdecode]

/-! The numbering of the opcode table, and the control changes. -/

/-- A table word that is the encoding of an instruction reads as that instruction. -/
theorem decodeTableWord_of_encode {nbits w : Nat} {i : Instr} (h : encode i = portWordOf nbits w) :
    decodeTableWord nbits w = some i := by
  rw [decodeTableWord, ← h, decode_encode]

/-- Settles O3: each encoding is the evaluation of its row, and the decodings follow from them by the round trip. -/
theorem workedEncodingsDecode : Obligations.WorkedEncodingsDecode := by
  refine ⟨rfl, rfl, rfl, rfl, rfl, rfl, rfl, rfl, rfl, rfl, rfl, rfl, ?_, ?_, ?_,
    decodeTableWord_of_encode rfl, decodeTableWord_of_encode rfl, decodeTableWord_of_encode rfl,
    decodeTableWord_of_encode rfl, decodeTableWord_of_encode rfl⟩ <;> decide +kernel

theorem controlGain_zero : controlGain 0#7 = Lit.zero := by decide +kernel

theorem controlGain_max : controlGain 127#7 = Lit.one := by decide +kernel

/-- Settles O28: the expansion is the table of R91; its ends are the gains 0 and 1. -/
theorem controlChangesExpandLinearly : Obligations.ControlChangesExpandLinearly := by
  refine ⟨?_, congrArg Instr.setMasterGain controlGain_zero, congrArg Instr.setMasterGain controlGain_max,
    ?_, ?_, ?_⟩
  · rintro v g rfl
    exact ⟨rfl, rfl, rfl, rfl, rfl, rfl⟩
  · rw [Pseudo.expand, controlGain_max]; decide +kernel
  · rw [Pseudo.expand, controlGain_zero]; decide +kernel
  · rw [Pseudo.expand, controlGain_max]; decide +kernel

end Sys2Proof.Encoding
end

section
/-! SUPPORT. The wavetable index (R110 to R112). The table size is a power of two, so the product with the phase only
moves the binade: it is exact while it does not overflow, and the index is the floor of the real product. -/

namespace Sys2Proof.WavetableIndex

open Sys2Proof.Machine Sys2Proof.Rounding

/-! The product with a power of two is exact. -/

/-- A rounding of a finite F32 is finite and has that F32's value. -/
theorem finite_and_units_eq_of_rounds {r f : F32} {num : Int} {den : Nat} (h : Rounds r num den)
    (hf : isFinite f = true) (hn : num = units f * den) : isFinite r = true ∧ units r = units f := by
  have heq := h.eq (not_nan_of_finite hf) hn
  refine ⟨?_, heq⟩
  rw [isFinite_iff_units h.not_nan, heq]
  exact (isFinite_iff_units (not_nan_of_finite hf)).mp hf

/-- The value `2^b` is an F32, so `i2f` gives it exactly (R15). -/
theorem units_i2f_two_pow {b : Nat} (hb : b ≤ 104) :
    isFinite (i2f (2 ^ b)) = true ∧ units (i2f (2 ^ b)) = 2 ^ b * 2 ^ 149 := by
  obtain ⟨f, hf, hu⟩ := exists_units_eq (n := 1) (g := b + 149) (by norm_num) (by omega)
  have hval : units f = 2 ^ b * 2 ^ 149 := by rw [hu, pow_add, Nat.cast_one, one_mul]
  rw [← hval]
  exact finite_and_units_eq_of_rounds (rounds_i2f _) hf (by rw [hval]; push_cast; ring)

/-- The binade of a magnitude below `2^(n + 23)` units is at most `n`. -/
theorem exists_significand_of_lt {a : F32} {n : Nat} (h : magUnits a < 2 ^ (n + 23)) :
    ∃ m k, magUnits a = m * 2 ^ k ∧ m < 2 ^ 24 ∧ k ≤ n := by
  obtain ⟨m, k, hu, -, hm, hk⟩ := exists_significand a
  refine ⟨m, k, hu, hm, ?_⟩
  rcases hk with h23 | rfl
  · have hlt : 2 ^ (k + 23) < 2 ^ (n + 23) :=
      calc 2 ^ (k + 23) = 2 ^ 23 * 2 ^ k := by rw [pow_add, mul_comm]
        _ ≤ m * 2 ^ k := Nat.mul_le_mul_right _ h23
        _ < 2 ^ (n + 23) := hu ▸ h
    have := (Nat.pow_lt_pow_iff_right (by norm_num)).mp hlt
    omega
  · exact Nat.zero_le n

/-- A value scaled up by `2^b` is an F32 again while its binade stays in the format. -/
theorem exists_units_mul_two_pow {a : F32} {b : Nat} (hb : b ≤ 27) (h : magUnits a < 2 ^ 249) :
    ∃ f : F32, isFinite f = true ∧ units f = units a * 2 ^ b := by
  obtain ⟨m, k, hu, hm, hk⟩ := exists_significand_of_lt (n := 226) h
  obtain ⟨f, hf, hfu⟩ := exists_units_eq hm (g := k + b) (by omega)
  have hval : units f = magUnits a * 2 ^ b := by rw [hfu, hu, pow_add]; push_cast; ring
  cases hs : signBit a with
  | false => exact ⟨f, hf, by simp [units, hs, ← hval]⟩
  | true => exact ⟨fneg f, (isFinite_fneg f).trans hf, by rw [units_fneg, hval]; simp [units, hs]⟩

/-- The product with `2^b` is exact, subnormal operands included (R14). -/
theorem units_fmul_i2f_two_pow {p : F32} {b : Nat} (hb : b ≤ 27) (hp : isFinite p = true)
    (h : magUnits p < 2 ^ 249) :
    isFinite (fmul p (i2f (2 ^ b))) = true ∧ units (fmul p (i2f (2 ^ b))) = units p * 2 ^ b := by
  obtain ⟨hsize, hsizeu⟩ := units_i2f_two_pow (b := b) (by omega)
  obtain ⟨f, hf, hfu⟩ := exists_units_mul_two_pow hb h
  rw [← hfu]
  exact finite_and_units_eq_of_rounds (rounds_fmul hp hsize) hf (by rw [hsizeu, hfu]; push_cast; ring)

/-! The index, and the entry it reads. -/

/-- The index of a phase is the exact floor of phase times table size, wrapped (R110, R111 item 4). -/
theorem romIndex_eq_floor {rom : List F32} {b : Nat} {p : F32} (hlen : rom.length = 2 ^ b) (hb : b ≤ 27)
    (hp : isFinite p = true) (h : magUnits p < 2 ^ 249) :
    romIndex rom p = some ((units p * 2 ^ b / 2 ^ 149) % 2 ^ b).toNat := by
  obtain ⟨hfin, hu⟩ := units_fmul_i2f_two_pow hb hp h
  simp [romIndex, hlen, floorInt, hfin, hu]

/-- The wrapped index lies in the table (R112). -/
theorem romIndex_lt {rom : List F32} {p : F32} {k : Nat} (hrom : 0 < rom.length) (h : romIndex rom p = some k) :
    k < rom.length := by
  obtain ⟨n, -, rfl⟩ := Option.map_eq_some_iff.mp h
  have := Int.emod_lt_of_pos n (Int.natCast_pos.mpr hrom)
  omega

/-- A look-up of a phase that has an index reads the entry there. -/
theorem getElem?_eq_lookup {rom : List F32} {p : F32} {k : Nat} (hrom : 0 < rom.length)
    (h : romIndex rom p = some k) : rom[k]? = some (lookup rom p) := by
  have hk := romIndex_lt hrom h
  simp [lookup, h, hk]

/-- Settles O45: the product is exact, so the index is the floor, and the entry there exists. -/
theorem lookupReadsTheExactFloorEntry : Obligations.LookupReadsTheExactFloorEntry := by
  intro rom b p hlen _ hb hp hmag
  exact getElem?_eq_lookup (hlen ▸ Nat.two_pow_pos b) (romIndex_eq_floor hlen (by omega) hp hmag)

end Sys2Proof.WavetableIndex
end

section
/-! SUPPORT. One envelope step (R120 to R129): what it does in each stage, the transitions it can make, and which way
it moves the level. -/

namespace Sys2Proof.EnvelopeSteps

open Sys2Proof.Machine Sys2Proof.Rounding Sys2Proof.SignalBounds

/-! An equation per stage: the snap and the end of the ramp have the same outcome. -/

section Stages

variable {c : Config} {v : Voice}

theorem envStep_of_attack (hst : v.stage = .attack) : envStep c v =
    if snaps c c.attackS = true ∨ fge (fadd v.level (attStep c)) Lit.one = true then v.toStage .decay Lit.one
    else v.toLevel (fadd v.level (attStep c)) := by
  simp only [envStep, hst, envAttack, ite_or]

theorem envStep_of_decay (hst : v.stage = .decay) : envStep c v =
    if snaps c c.decayS = true ∨ fle (fsub v.level (decStep c)) c.sustainLevel = true
    then v.toStage .sustain c.sustainLevel else v.toLevel (fsub v.level (decStep c)) := by
  simp only [envStep, hst, envDecay, ite_or]

theorem envStep_of_release (hst : v.stage = .release) : envStep c v =
    if snaps c c.releaseS = true ∨ fle (fsub v.level (relStep c)) Lit.zero = true then v.toOff
    else v.toLevel (fsub v.level (relStep c)) := by
  simp only [envStep, hst, envRelease, ite_or]

/-- Sustain and Off write nothing (R125, R127). -/
theorem envStep_of_holding (hst : v.stage = .sustain ∨ v.stage = .off) : envStep c v = v := by
  rcases hst with hst | hst <;> simp only [envStep, hst, envSustain]

end Stages

/-- Settles O41: the rule's step constants are the model's, and each stage has its equation. -/
theorem envelopeStepFollowsItsStage : Obligations.EnvelopeStepFollowsItsStage := by
  rintro c v _ _ _ rfl rfl rfl
  exact ⟨envStep_of_attack, envStep_of_decay, envStep_of_holding, envStep_of_release⟩

/-- Settles O39: each outcome of an envelope step stays in its stage or takes one edge of the table, and only the step
to Off writes `active`. -/
theorem envelopeStepsOnlyAlongTheTable : Obligations.EnvelopeStepsOnlyAlongTheTable := by
  intro c v
  rcases envStep_cases c v with he | ⟨hst, he⟩ | ⟨hst, -, -, he⟩ | ⟨hst, he⟩ | ⟨hst, -, -, he⟩ | ⟨hst, he⟩ |
    ⟨hst, -, -, he⟩ <;> rw [he]
  · exact ⟨by cases v.stage <;> simp, Or.inl rfl⟩
  · exact ⟨by simp [hst], Or.inl rfl⟩
  · exact ⟨by simp [hst], Or.inl rfl⟩
  · exact ⟨by simp [hst], Or.inl rfl⟩
  · exact ⟨by simp [hst], Or.inl rfl⟩
  · exact ⟨by simp [hst], Or.inr ⟨hst, rfl, rfl, rfl⟩⟩
  · exact ⟨by simp [hst], Or.inl rfl⟩

/-! Which way a step moves the level (R129). -/

/-- Adding a value that is not negative does not lower a finite value, and gives no NaN. -/
theorem fle_self_fadd {a b : F32} (ha : isFinite a = true) (hb0 : fle Lit.zero b = true) :
    fle a (fadd a b) = true := by
  have hn := (not_nan_of_fle hb0).2
  have hna := not_nan_of_finite ha
  rw [fle_zero_iff hn] at hb0
  cases hb : isFinite b with
  | false =>
    rw [fadd_inf_right ha hn (isInf_of_not_finite hn hb), fle_iff_units hna hn]
    have hlt := (isFinite_iff_units hna).mp ha
    have hge := (isFinite_iff_units hn).not.mp (by simp [hb])
    rw [abs_of_nonneg hb0] at hge
    have := le_abs_self (units a)
    omega
  | true =>
    have hr := rounds_fadd ha hb
    rw [fle_iff_units hna hr.not_nan]
    exact hr.ge hna (by push_cast; omega)

section Monotone

variable {c : Config} (h : c.wf = true) {v : Voice} (hv : LevelOk c v)
include h hv

/-- Attack ends on the top of the range, and a ramp that goes on adds a step that is not negative. -/
theorem level_le_envStep_of_attack (hst : v.stage = .attack) : fle v.level (envStep c v).level = true := by
  obtain ⟨hl, -, -⟩ := hv
  obtain ⟨ha, -, -⟩ := wf_times h
  rw [envStep_of_attack hst]
  split_ifs with hend
  · simp only [inRange, Bool.and_eq_true] at hl
    exact hl.2
  · rw [not_or, Bool.not_eq_true] at hend
    exact fle_self_fadd (isFinite_of_unit hl) (fle_zero_stageStep h inRange_unit_one ha hend.1)

/-- Decay ends on the sustain level, which it has not passed, and a ramp that goes on subtracts a step that is not
negative. -/
theorem envStep_level_le_of_decay (hst : v.stage = .decay) : fle (envStep c v).level v.level = true := by
  obtain ⟨hl, hdec, -⟩ := hv
  obtain ⟨-, hd, -⟩ := wf_times h
  rw [envStep_of_decay hst]
  split_ifs with hend
  · exact hdec hst
  · rw [not_or, Bool.not_eq_true] at hend
    exact fle_fsub_self (isFinite_of_unit hl) (fle_zero_stageStep h (inRange_decaySpan h) hd hend.1)

/-- Release ends on the bottom of the range, and a ramp that goes on subtracts a step that is not negative. -/
theorem envStep_level_le_of_release (hst : v.stage = .release) : fle (envStep c v).level v.level = true := by
  obtain ⟨hl, -, -⟩ := hv
  obtain ⟨-, -, hr⟩ := wf_times h
  rw [envStep_of_release hst]
  split_ifs with hend
  · simp only [inRange, Bool.and_eq_true] at hl
    exact hl.1
  · rw [not_or, Bool.not_eq_true] at hend
    exact fle_fsub_self (isFinite_of_unit hl) (fle_zero_stageStep h inRange_unit_one hr hend.1)

end Monotone

/-- Settles O40: one monotonicity lemma per ramp, and `levelOk_envStep` for the range. -/
theorem envelopeIsMonotoneAndBounded : Obligations.EnvelopeIsMonotoneAndBounded := fun _ _ h hv =>
  ⟨level_le_envStep_of_attack h hv, envStep_level_le_of_decay h hv, envStep_level_le_of_release h hv,
    fun hst => by rw [envStep_of_holding (Or.inl hst)], levelOk_envStep h hv⟩

end Sys2Proof.EnvelopeSteps
end

section
/-! SUPPORT. The voice allocator and the note commands (R135 to R148): which slot a NOTE_ON takes, the eight slots a
free pool fills in order, what the three note commands write, and the silence of a frame with no active voice. -/

namespace Sys2Proof.VoiceAllocator

open Sys2Proof.Machine Sys2Proof.StepRules Sys2Proof.Encoding

/-! The slot selected (R136 to R138). -/

theorem slots_getElem (k : Nat) (h : k < slots.length) : slots[k] = ⟨k, h⟩ :=
  (by decide : ∀ k : Fin 8, slots[k] = k) ⟨k, h⟩

/-- A search of the slots in ascending order finds the lowest one that passes. -/
theorem find?_slots_eq_some {p : Fin 8 → Bool} {i : Fin 8} :
    slots.find? p = some i ↔ p i = true ∧ ∀ j < i, p j = false := by
  rw [List.find?_eq_some_iff_getElem]
  refine and_congr_right fun _ => ⟨?_, fun h => ⟨i, i.isLt, slots_getElem i i.isLt, fun j hj => ?_⟩⟩
  · rintro ⟨k, hk, rfl, h⟩ j hj
    rw [slots_getElem] at hj
    simpa [slots_getElem] using h j hj
  · rw [slots_getElem, h _ hj]
    rfl

/-- `FindFree()` (R137). -/
theorem findFree_eq_some {s : State} {i : Fin 8} :
    findFree s = some i ↔ (s.voice i).active = false ∧ ∀ j < i, (s.voice j).active = true := by
  simp [findFree, find?_slots_eq_some]

theorem findFree_eq_none {s : State} : findFree s = none ↔ ∀ i : Fin 8, (s.voice i).active = true := by
  simp [findFree]

theorem le_foldl_min {α : Type} (f : α → Nat) (l : List α) (b n : Nat) :
    n ≤ l.foldl (fun m i => min m (f i)) b ↔ n ≤ b ∧ ∀ i ∈ l, n ≤ f i := by
  induction l generalizing b with
  | nil => simp
  | cons i l ih => simp [ih, and_assoc]

/-- The least age is the greatest lower bound of the ages (R138). -/
theorem le_minAge_iff {s : State} {n : Nat} : n ≤ minAge s ↔ ∀ i : Fin 8, n ≤ (s.voice i).age.toNat := by
  rw [minAge, le_foldl_min]
  exact ⟨fun h i => h.2 i (mem_slots i), fun h => ⟨h 0, fun i _ => h i⟩⟩

theorem minAge_le (s : State) (i : Fin 8) : minAge s ≤ (s.voice i).age.toNat := le_minAge_iff.mp le_rfl i

/-- Some slot has the least age: were every age greater, so would the least one be. -/
theorem exists_age_eq_minAge (s : State) : ∃ i : Fin 8, (s.voice i).age.toNat = minAge s := by
  by_contra h
  have hgt : minAge s + 1 ≤ minAge s :=
    le_minAge_iff.mpr fun i => (minAge_le s i).lt_of_ne fun he => h ⟨i, he.symm⟩
  omega

/-- `Steal()` (R138): the slot has the least age, and no lower one has. -/
theorem steal_spec (s : State) :
    (s.voice (steal s)).age.toNat = minAge s ∧ ∀ j < steal s, minAge s < (s.voice j).age.toNat := by
  obtain ⟨i, hi⟩ := exists_age_eq_minAge s
  obtain ⟨k, hk⟩ : ∃ k, slots.find? (fun i => (s.voice i).age.toNat == minAge s) = some k :=
    Option.isSome_iff_exists.mp (List.find?_isSome.mpr ⟨i, mem_slots i, beq_iff_eq.mpr hi⟩)
  have hsteal : steal s = k := by rw [steal, hk, Option.getD_some]
  obtain ⟨hage, hlow⟩ := find?_slots_eq_some.mp hk
  rw [hsteal]
  exact ⟨beq_iff_eq.mp hage, fun j hj => (minAge_le s j).lt_of_ne (beq_eq_false_iff_ne.mp (hlow j hj)).symm⟩

theorem selectSlot_of_free {s : State} {i : Fin 8} (hi : (s.voice i).active = false)
    (hlow : ∀ j < i, (s.voice j).active = true) : selectSlot s = i := by
  rw [selectSlot, findFree_eq_some.mpr ⟨hi, hlow⟩, Option.getD_some]

theorem selectSlot_of_full {s : State} (h : ∀ i : Fin 8, (s.voice i).active = true) : selectSlot s = steal s := by
  rw [selectSlot, findFree_eq_none.mpr h, Option.getD_none]

/-- Settles O15: a free slot is found by `FindFree()`; with none, `Steal()` takes the lowest slot of the least age. -/
theorem noteOnTakesTheLowestFreeOrTheOldestSlot : Obligations.NoteOnTakesTheLowestFreeOrTheOldestSlot := by
  refine fun s => ⟨fun i => selectSlot_of_free, fun h => ?_⟩
  obtain ⟨hage, hlow⟩ := steal_spec s
  rw [selectSlot_of_full h, hage]
  exact ⟨minAge_le s, hlow⟩

/-! NOTE_ON (R140), and a run of them (R144). -/

theorem exec_noteOn {s : State} (note vel : BitVec 7) (h : s.ageCtr ≠ 0xFFFFFFFF#32) :
    exec (.noteOn note vel) s = .next (startNote note vel s) := if_neg h

/-- Settles O13: the fields of `startedVoice` are the ten values of R140. -/
theorem noteOnStartsTheSelectedSlot : Obligations.NoteOnStartsTheSelectedSlot :=
  ⟨fun _ note vel h => exec_noteOn note vel h, decode_noteOn⟩

@[simp] theorem startNote_cfg (note vel : BitVec 7) (s : State) : (startNote note vel s).cfg = s.cfg := rfl

theorem playNotes_cons {s : State} (n : BitVec 7 × BitVec 7) (rest : List (BitVec 7 × BitVec 7))
    (h : s.ageCtr ≠ 0xFFFFFFFF#32) : playNotes (n :: rest) s = playNotes rest (startNote n.1 n.2 s) := by
  rw [playNotes, exec_noteOn _ _ h, andThen_next]

theorem playNotes_append (l m : List (BitVec 7 × BitVec 7)) (s : State) :
    playNotes (l ++ m) s = andThen (playNotes l s) (playNotes m) := by
  induction l generalizing s with
  | nil => rfl
  | cons n l ih =>
    rw [List.cons_append, playNotes, playNotes]
    cases exec (.noteOn n.1 n.2) s with
    | next u => exact ih u
    | fault r => rfl
    | refused r => rfl

/-- The pool after the notes `played` on free slots, with the age counter at `a` before the first: note `i` is in slot
`i` with age `a + i`, and the other slots are still free (R137, R140). -/
structure Filled (a : BitVec 32) (played : List (BitVec 7 × BitVec 7)) (s : State) : Prop where
  ageCtr : s.ageCtr = a + BitVec.ofNat 32 played.length
  started : ∀ (i : Fin 8) (h : i < played.length),
    s.voice i = startedVoice s.cfg played[(i : Nat)].1 played[(i : Nat)].2 (a + BitVec.ofNat 32 i)
  free : ∀ i : Fin 8, played.length ≤ i → (s.voice i).active = false

namespace Filled

variable {a : BitVec 32} {played : List (BitVec 7 × BitVec 7)} {s : State}

theorem of_free (h : ∀ i : Fin 8, (s.voice i).active = false) : Filled s.ageCtr [] s where
  ageCtr := (BitVec.add_zero _).symm
  started _ hi := absurd hi (Nat.not_lt_zero _)
  free i _ := h i

theorem active (h : Filled a played s) {i : Fin 8} (hi : i < played.length) : (s.voice i).active = true := by
  rw [h.started i hi]
  rfl

/-- The next note takes the first slot after those filled (R137). -/
theorem selectSlot_eq (h : Filled a played s) (hlen : played.length < 8) : selectSlot s = ⟨played.length, hlen⟩ :=
  selectSlot_of_free (h.free _ le_rfl) fun _ hj => h.active hj

theorem append_note (h : Filled a played s) (hlen : played.length < 8) (n : BitVec 7 × BitVec 7) :
    Filled a (played ++ [n]) (startNote n.1 n.2 s) where
  ageCtr := by
    rw [startNote_ageCtr, h.ageCtr, BitVec.add_assoc, List.length_append, BitVec.ofNat_add]
    rfl
  started i hi := by
    rw [startNote_voice, h.selectSlot_eq hlen]
    split_ifs with he
    · subst he
      simp [h.ageCtr]
    · have hlt : i < played.length := by
        have : played.length ≠ i := fun e => he (Fin.ext e)
        rw [List.length_append, List.length_singleton] at hi
        omega
      rw [h.started i hlt, List.getElem_append_left hlt, startNote_cfg]
  free i hi := by
    rw [List.length_append, List.length_singleton] at hi
    rw [startNote_voice, h.selectSlot_eq hlen, if_neg (fun he => by simp [← he] at hi)]
    exact h.free i (by omega)

/-- While slots and ages last, notes fill the pool in slot order. -/
theorem append_notes (h : Filled a played s) (rest : List (BitVec 7 × BitVec 7))
    (hlen : played.length + rest.length ≤ 8) (hroom : a.toNat + 8 < 2 ^ 32) :
    ∃ t, playNotes rest s = .next t ∧ Filled a (played ++ rest) t := by
  induction rest generalizing played s with
  | nil => exact ⟨s, rfl, by rwa [List.append_nil]⟩
  | cons n rest ih =>
    rw [List.length_cons] at hlen
    have hctr : s.ageCtr ≠ 0xFFFFFFFF#32 := by
      rw [h.ageCtr]
      bv_omega
    obtain ⟨t, ht, hfill⟩ := ih (h.append_note (by omega) n) (by simp; omega)
    exact ⟨t, by rw [playNotes_cons n rest hctr, ht], by rwa [List.append_assoc] at hfill⟩

/-- In a full pool the first note is the oldest, and the next one takes its slot (R138, R144). -/
theorem selectSlot_eq_zero (h : Filled a played s) (hlen : played.length = 8) (hroom : a.toNat + 8 < 2 ^ 32) :
    selectSlot s = 0 := by
  have hage : ∀ i : Fin 8, (s.voice i).age.toNat = a.toNat + i := by
    intro i
    rw [h.started i (by omega)]
    simp only [startedVoice]
    bv_omega
  obtain ⟨hsteal, -⟩ := steal_spec s
  have hleast : minAge s ≤ a.toNat + 0 := (minAge_le s 0).trans_eq (hage 0)
  rw [selectSlot_of_full fun i => h.active (by omega)]
  rw [hage] at hsteal
  exact Fin.ext (show (steal s : Nat) = 0 by omega)

end Filled

/-- Settles O16: eight notes fill the pool in slot order, and the ninth takes the oldest, slot 0. -/
theorem ninthNoteStealsTheFirst : Obligations.NinthNoteStealsTheFirst := by
  intro s notes hfree hroom
  have hsplit : List.ofFn notes = List.ofFn (fun i : Fin 8 => notes i.castSucc) ++ [notes 8] := List.ofFn_succ_last
  obtain ⟨u, hu, hfill⟩ := (Filled.of_free hfree).append_notes (List.ofFn fun i : Fin 8 => notes i.castSucc)
    (by simp) (by omega)
  rw [List.nil_append] at hfill
  have hlen : (List.ofFn fun i : Fin 8 => notes i.castSucc).length = 8 := List.length_ofFn
  have hslot := hfill.selectSlot_eq_zero hlen (by omega)
  have hctr : u.ageCtr = s.ageCtr + 8#32 := by rw [hfill.ageCtr, hlen]
  have hroom' : u.ageCtr ≠ 0xFFFFFFFF#32 := by
    rw [hctr]
    bv_omega
  have hplay : playNotes (List.ofFn notes) s = .next (startNote (notes 8).1 (notes 8).2 u) := by
    rw [hsplit, playNotes_append, hu, andThen_next, playNotes_cons _ _ hroom']
    rfl
  have hzero : (startNote (notes 8).1 (notes 8).2 u).voice 0 =
      startedVoice u.cfg (notes 8).1 (notes 8).2 (s.ageCtr + 8#32) := by
    rw [startNote_voice, if_pos hslot, hctr]
  have hrest : ∀ i : Fin 8, i ≠ 0 → (startNote (notes 8).1 (notes 8).2 u).voice i =
      startedVoice u.cfg (notes i.castSucc).1 (notes i.castSucc).2 (s.ageCtr + BitVec.ofNat 32 i) := by
    intro i hi
    rw [startNote_voice, if_neg (hslot ▸ hi.symm), hfill.started i (by omega)]
    simp only [List.getElem_ofFn, Fin.eta]
  refine ⟨_, hplay, ?counter, ?newAge, ?newNote, ?others, ?allActive⟩
  case counter =>
    rw [startNote_ageCtr, hctr, BitVec.add_assoc]
    rfl
  case newAge => rw [hzero, startedVoice]
  case newNote => rw [hzero, startedVoice]
  case others =>
    intro i hi
    rw [hrest i hi]
    exact ⟨rfl, rfl⟩
  case allActive =>
    intro i
    obtain rfl | hi := eq_or_ne i 0
    · rw [hzero]
      exact ⟨rfl, rfl⟩
    · rw [hrest i hi]
      exact ⟨rfl, rfl⟩

/-! NOTE_OFF (R145, R146). -/

theorem releasedVoice_eq (note : BitVec 7) (v : Voice) :
    releasedVoice note v = if v.active = true ∧ v.note = note then { v with stage := .release } else v := by
  simp [releasedVoice, Voice.holds, Voice.toRelease]

/-- Settles O17: NOTE_OFF is one function on every slot of the voice file. -/
theorem noteOffReleasesEveryHoldingVoice : Obligations.NoteOffReleasesEveryHoldingVoice :=
  ⟨fun s note => ⟨s.mapVoices (releasedVoice note), rfl,
    fun i => by rw [State.voice_mapVoices, releasedVoice_eq], rfl⟩, decode_noteOff⟩

theorem mapVoices_eq_self {s : State} {f : Voice → Voice} (h : ∀ i : Fin 8, f (s.voice i) = s.voice i) :
    s.mapVoices f = s := by
  have hv : (s.mapVoices f).voices = s.voices := voices_ext fun i => (State.voice_mapVoices s f i).trans (h i)
  exact congrArg (fun vs => { s with voices := vs }) hv

/-- A released voice still holds its note, and Release is where NOTE_OFF would put it. -/
theorem releasedVoice_idem (note : BitVec 7) (v : Voice) :
    releasedVoice note (releasedVoice note v) = releasedVoice note v := by
  rw [releasedVoice_eq note v]
  split_ifs with h
  · rw [releasedVoice_eq, if_pos h]
  · rw [releasedVoice_eq, if_neg h]

/-- Settles O18: NOTE_OFF changes no slot that does not hold the note, and none that is in Release already. -/
theorem unheldOrRepeatedNoteOffChangesNothing : Obligations.UnheldOrRepeatedNoteOffChangesNothing := by
  refine ⟨fun s note h => ?_, fun s note => ⟨s.mapVoices (releasedVoice note), rfl, ?_⟩⟩
  · refine congrArg Host.Outcome.next (mapVoices_eq_self fun i => ?_)
    rw [releasedVoice_eq, if_neg fun ⟨ha, hn⟩ => h i ha hn]
  · refine congrArg Host.Outcome.next (mapVoices_eq_self fun i => ?_)
    rw [State.voice_mapVoices, releasedVoice_idem]

/-! ALL_NOTES_OFF (R147), and a frame with no active voice (R187, R206). -/

/-- Writing a slot with what it holds changes nothing. -/
theorem setVoice_self (s : State) (i : Fin 8) : s.setVoice i (s.voice i) = s := by
  have hv : (s.setVoice i (s.voice i)).voices = s.voices := Vector.set_getElem_self i.isLt
  exact congrArg (fun vs => { s with voices := vs }) hv

/-- The turn of an inactive voice adds nothing and writes nothing (R187). -/
theorem addVoice_of_inactive {p : Sum} {i : Fin 8} (h : (p.state.voice i).active = false) : addVoice p i = p := by
  simp only [addVoice, voiceFrame, h, Bool.not_false, if_true, setVoice_self]
  rfl

/-- With every slot inactive the voice sum is +0.0, on the state it began with (R206). -/
theorem voiceSum_of_inactive {s : State} (h : ∀ i : Fin 8, (s.voice i).active = false) :
    voiceSum s = { sum := Lit.zero, state := s } := by
  refine voiceSum_induction (P := fun p => p = { sum := Lit.zero, state := s }) s rfl ?_
  rintro _ i rfl
  exact addVoice_of_inactive (h i)

/-- Settles O19: ALL_NOTES_OFF puts every slot at Off, so slot 0 is free and no voice contributes to the next frame. -/
theorem allNotesOffSilencesEverySlot : Obligations.AllNotesOffSilencesEverySlot := by
  refine ⟨fun s => ?_, decode_allNotesOff⟩
  have hoff : ∀ i : Fin 8, (s.mapVoices Voice.toOff).voice i = (s.voice i).toOff := State.voice_mapVoices s _
  have hinactive : ∀ i : Fin 8, ((s.mapVoices Voice.toOff).voice i).active = false := fun i => by rw [hoff]; rfl
  exact ⟨s.mapVoices Voice.toOff, rfl, hoff, rfl,
    findFree_eq_some.mpr ⟨hinactive 0, fun j hj => absurd hj (Fin.not_lt_zero j)⟩,
    congrArg Sum.sum (voiceSum_of_inactive hinactive)⟩

end Sys2Proof.VoiceAllocator
end

section
/-! SUPPORT. NOP, the six parameter setters and the reserved opcodes (R154 to R162): the register each setter writes,
the clamps of the stored values written out, and the step at a reserved word. -/

namespace Sys2Proof.ParameterSetters

open Sys2Proof.Machine Sys2Proof.SignalBounds Sys2Proof.Encoding

/-! The clamps (R16, R154). -/

/-- The clamp by its two tests, the lower one first, which a NaN fails (R16). -/
theorem clampf_eq_ite (x lo hi : F32) :
    clampf x lo hi = if fge x lo = false then lo else if fgt x hi = true then hi else x := by
  simp only [clampf, Bool.not_eq_true']

theorem inRange_clampUnit (f : F32) : inRange (clampUnit f) Lit.zero Lit.one = true :=
  inRange_clampf f (by decide)

theorem inRange_clampFb (f : F32) : inRange (clampFb f) Lit.zero Lit.c0p85 = true :=
  inRange_clampf f (by decide)

theorem inRange_clampMs (f : F32) : inRange (clampMs f) Lit.c30 Lit.c800 = true :=
  inRange_clampf f (by decide)

/-! The register each setter writes (R156 to R161). -/

section Setters
variable (s : State) (f : F32)

theorem exec_nop : exec .nop s = .next s := rfl

theorem exec_setPreset (val : BitVec 8) : exec (.setPreset val) s = .next { s with preset := clampPreset val } := rfl

theorem exec_setMasterGain : exec (.setMasterGain f) s = .next { s with masterGain := clampUnit f } := rfl

theorem exec_setEchoOn (on : Bool) : exec (.setEchoOn on) s = .next { s with echoOn := on } := rfl

theorem exec_setEchoMix : exec (.setEchoMix f) s = .next { s with echoMix := clampUnit f } := rfl

theorem exec_setEchoFb : exec (.setEchoFb f) s = .next { s with echoFb := clampFb f } := rfl

theorem exec_setEchoMs : exec (.setEchoMs f) s = .next (setEchoTime (clampMs f) s) := rfl

end Setters

/-- Settles O26: each of the four registers is written with the clamp of its range, which no operand leaves. -/
theorem settersStoreOnlyLegalValues : Obligations.SettersStoreOnlyLegalValues := fun s f =>
  ⟨⟨_, exec_setMasterGain s f, inRange_clampUnit f⟩, ⟨_, exec_setEchoMix s f, inRange_clampUnit f⟩,
    ⟨_, exec_setEchoFb s f, inRange_clampFb f⟩, ⟨_, exec_setEchoMs s f, inRange_clampMs f⟩⟩

/-- Settles O12: NOP answers the state it is given. -/
theorem nopChangesNothing : Obligations.NopChangesNothing := ⟨exec_nop, decode_nop⟩

/-- Settles O20: the preset clamp is `min(val, 3)` on two bits. -/
theorem setPresetClampsToThree : Obligations.SetPresetClampsToThree := ⟨exec_setPreset, decode_setPreset⟩

/-- Settles O21: the stored gain is the unit clamp by its two tests. -/
theorem setMasterGainClampsAndStores : Obligations.SetMasterGainClampsAndStores := by
  refine ⟨fun s f => ?_, decode_setMasterGain⟩
  rw [exec_setMasterGain, clampUnit, clampf_eq_ite]
  rfl

/-- Settles O22: the echo switch is the one register SET_ECHO_ON writes. -/
theorem setEchoOnStoresTheBit : Obligations.SetEchoOnStoresTheBit := ⟨exec_setEchoOn, decode_setEchoOn⟩

/-- Settles O23: the stored mix is the unit clamp by its two tests. -/
theorem setEchoMixClampsAndStores : Obligations.SetEchoMixClampsAndStores := by
  refine ⟨fun s f => ?_, decode_setEchoMix⟩
  rw [exec_setEchoMix, clampUnit, clampf_eq_ite]
  rfl

/-- Settles O24: the stored feedback is the clamp at the F32 nearest 0.85 by its two tests. -/
theorem setEchoFbClampsAndStores : Obligations.SetEchoFbClampsAndStores := by
  refine ⟨fun s f => ?_, decode_setEchoFb⟩
  rw [exec_setEchoFb, clampFb, clampf_eq_ite]
  rfl

/-- Settles O25: the echo time is clamped first, and the length and the index follow from the clamped time. -/
theorem setEchoMsRecomputesLengthAndIndex : Obligations.SetEchoMsRecomputesLengthAndIndex := by
  refine ⟨fun s f => ⟨setEchoTime (clampMs f) s, exec_setEchoMs s f, ?_, ?_, ?_, rfl⟩, decode_setEchoMs⟩
  · rw [setEchoTime_echoMs]
    exact clampf_eq_ite f Lit.c30 Lit.c800
  · rw [setEchoTime_echoLen, setEchoTime_echoMs]
    rfl
  · rw [setEchoTime_echoIdx, setEchoTime_echoLen]

/-! The reserved opcodes (R86, R162). -/

/-- No command has an opcode of the two reserved ranges (R84, R162). -/
theorem not_reserved_of_mem_commandOpcodes :
    ∀ op ∈ commandOpcodes, ¬ ((0x04#8 ≤ op ∧ op ≤ 0x0F#8) ∨ (0x16#8 ≤ op ∧ op ≤ 0xFF#8)) := by
  decide

/-- A presented word that decodes to a reserved opcode is consumed and does nothing else (R86, R162). -/
theorem step_of_decode_reserved {s : State} {w : PortWord} {rest : List PortEdge} {op : BitVec 8}
    (hports : s.ports = PortEdge.ofWord w :: rest) (hdecode : decode w = .reserved op) :
    step s = .next (s.setPorts rest) := by
  simp only [step, hports, accept_ofWord, applyEvent, runWord, hdecode, execReserved]

/-- Settles O5: an opcode of the reserved ranges is in no row of the opcode map, so its word decodes by name and the
step only consumes it. -/
theorem reservedOpcodeChangesNothing : Obligations.ReservedOpcodeChangesNothing := by
  intro s op arg rest hop hports
  have hdecode : decode (.cmd (op ++ arg)) = .reserved op :=
    decode_reserved (fun hmem => not_reserved_of_mem_commandOpcodes op hmem hop) arg
  exact ⟨hdecode, step_of_decode_reserved hports hdecode⟩

end Sys2Proof.ParameterSetters
end

section
/-! SUPPORT. The preset multiplexer (R175 to R187): an equation per preset, the auxiliary state each one writes, the
exact noise sample (R182), one voice in one frame, and what a whole render leaves of the other presets' state (R186). -/

namespace Sys2Proof.PresetSynthesis

open Sys2Proof.Machine Sys2Proof.Rounding Sys2Proof.SignalBounds Sys2Proof.StepRules Sys2Proof.WavetableIndex

/-! The multiplexer (R177), and what a raw sample leaves of each part of the auxiliary state (R181, R183). -/

theorem preset_cases : ∀ preset : BitVec 2, preset = 0#2 ∨ preset = 1#2 ∨ preset = 2#2 ∨ preset = 3#2 := by decide

section RawSample

variable (c : Config) (rom : List F32) (preset : BitVec 2) (v : Voice) (lcg : BitVec 32)

@[simp] theorem rawSample_sine :
    rawSample c rom 0#2 v lcg = { voice := v, lcg := lcg, value := sine rom v.phase } := rfl

@[simp] theorem rawSample_additive :
    rawSample c rom 1#2 v lcg = { voice := v, lcg := lcg, value := additive rom v.phase } := rfl

@[simp] theorem rawSample_electric : rawSample c rom 2#2 v lcg = electric rom v lcg := rfl

@[simp] theorem rawSample_pad : rawSample c rom 3#2 v lcg = pad c.padAlpha rom v lcg := rfl

/-- Only preset 2 steps the generator (R182). -/
theorem rawSample_lcg : (rawSample c rom preset v lcg).lcg = if preset = 2#2 then lcgNext lcg else lcg := by
  obtain rfl | rfl | rfl | rfl := preset_cases preset <;> simp [electric, pad]

/-- Only preset 2 decays the transient (R181). -/
theorem rawSample_transient : (rawSample c rom preset v lcg).voice.transient =
    if preset = 2#2 then fmul v.transient Lit.c0p9992 else v.transient := by
  obtain rfl | rfl | rfl | rfl := preset_cases preset <;> simp [electric, pad]

/-- Only preset 3 writes the filter memory (R183). -/
theorem rawSample_filt : (rawSample c rom preset v lcg).voice.filt =
    if preset = 3#2 then padFilter c.padAlpha v.filt (padInput rom v.phase) else v.filt := by
  obtain rfl | rfl | rfl | rfl := preset_cases preset <;> simp [electric, pad]

end RawSample

/-- Settles O44: the equation of each preset, with the literals of R18 written out. -/
theorem presetsEvaluateTheirFormulas : Obligations.PresetsEvaluateTheirFormulas := by
  intro c rom v lcg
  refine ⟨rawSample_sine c rom v lcg, rawSample_additive c rom v lcg, ?electric, ?pad⟩
  case electric => exact ⟨electric rom v lcg, rfl, rfl, rfl, rfl⟩
  case pad => exact ⟨pad c.padAlpha rom v lcg, padInput rom v.phase, rfl, rfl, rfl, rfl, rfl⟩

/-! The noise generator (R182): the sample is a quotient of F32 values that is an F32 itself. -/

/-- A natural number below `2^24` is an F32, so `i2f` gives it exactly (R15). -/
theorem units_i2f {n : Nat} (hn : n < 2 ^ 24) : isFinite (i2f n) = true ∧ units (i2f n) = n * 2 ^ 149 := by
  obtain ⟨f, hf, hu⟩ := exists_units_eq hn (g := 149) (by norm_num)
  rw [← hu]
  exact finite_and_units_eq_of_rounds (rounds_i2f n) hf (by rw [hu]; push_cast; ring)

/-- Dividing a natural number below `2^24` by `2^24` is exact (R14). -/
theorem units_i2f_fdiv_c2p24 {n : Nat} (hn : n < 2 ^ 24) :
    isFinite (fdiv (i2f n) Lit.c2p24) = true ∧ units (fdiv (i2f n) Lit.c2p24) = n * 2 ^ 125 := by
  obtain ⟨hfin, hval⟩ := units_i2f hn
  have h24 : units Lit.c2p24 = 2 ^ 24 * 2 ^ 149 := by decide +kernel
  obtain ⟨f, hf, hu⟩ := exists_units_eq hn (g := 125) (by norm_num)
  have hr := rounds_fdiv hfin (b := Lit.c2p24) (by decide) (by rw [h24]; positivity)
  rw [← hu]
  refine finite_and_units_eq_of_rounds hr hf ?_
  rw [Int.toNat_of_nonneg (by rw [h24]; positivity), h24, hval, hu]
  ring

/-- A finite value in `[0, 2^149)` units is in `[0, 1)`. -/
theorem inUnitInterval_of_units {p : F32} (hf : isFinite p = true) (h0 : 0 ≤ units p) (h1 : units p < 2 ^ 149) :
    inUnitInterval p = true := by
  have hn := not_nan_of_finite hf
  simp only [inUnitInterval, Bool.and_eq_true]
  exact ⟨(fle_zero_iff hn).mpr h0, (flt_iff_units hn (by decide)).mpr (by rwa [units_one])⟩

theorem toNat_mul_add {w : Nat} (x a c : BitVec w) :
    (x * a + c).toNat = (x.toNat * a.toNat + c.toNat) % 2 ^ w := by
  rw [BitVec.toNat_add, BitVec.toNat_mul, Nat.mod_add_mod]

theorem lcgNext_toNat (x : BitVec 32) : (lcgNext x).toNat = (x.toNat * 1664525 + 1013904223) % 2 ^ 32 :=
  toNat_mul_add x 1664525#32 1013904223#32

/-- The top 24 bits of a generator state. -/
theorem ushiftRight_eight_toNat (x : BitVec 32) : (x >>> 8).toNat = x.toNat / 256 := by
  rw [BitVec.toNat_ushiftRight, Nat.shiftRight_eq_div_pow]

/-- Settles O43: the top 24 bits are below `2^24`, where conversion and quotient are exact. -/
theorem noiseSampleIsExact : Obligations.NoiseSampleIsExact := by
  intro x
  have htop : x.toNat / 256 < 2 ^ 24 := by have := x.isLt; omega
  obtain ⟨hfin, hval⟩ : isFinite (lcgUniform x) = true ∧ units (lcgUniform x) = (x.toNat / 256 : Nat) * 2 ^ 125 := by
    rw [lcgUniform, ushiftRight_eight_toNat]
    exact units_i2f_fdiv_c2p24 htop
  exact ⟨lcgNext_toNat x, hfin, hval, inUnitInterval_of_units hfin (by omega) (by omega)⟩

/-! The phase advance (R185), and one voice in one frame (R187). -/

/-- Settles O42, by `inUnitInterval_advance`: the sum does not overflow, and `frac` of it is below one. -/
theorem phaseAdvanceStaysBelowOne : Obligations.PhaseAdvanceStaysBelowOne :=
  fun _ => ⟨rfl, inUnitInterval_advance⟩

section VoiceFrame

variable (c : Config) (rom : List F32) (preset : BitVec 2) (v : Voice) (lcg : BitVec 32)

/-- An inactive voice has no frame (R187). -/
theorem voiceFrame_of_inactive (h : v.active = false) :
    voiceFrame c rom preset v lcg = { voice := v, lcg := lcg, sample := none } := by
  simp [voiceFrame, h]

/-- The frame that ends a release gives no sample (R187). -/
theorem voiceFrame_of_ended (h : v.active = true) (he : (envStep c v).active = false) :
    voiceFrame c rom preset v lcg = { voice := envStep c v, lcg := lcg, sample := none } := by
  simp [voiceFrame, h, he]

/-- A voice still active after its envelope step sounds (R187). -/
theorem voiceFrame_of_sounding (h : v.active = true) (he : (envStep c v).active = true) :
    voiceFrame c rom preset v lcg = soundVoice c rom preset (envStep c v) lcg := by
  simp [voiceFrame, h, he]

/-- A sounded frame scales by the level and the gain of the voice it started from (R184): the raw sample writes
neither. -/
theorem soundVoice_sample : (soundVoice c rom preset v lcg).sample =
    some (fmul (rawSample c rom preset v lcg).value (fmul v.level v.velGain)) := by
  obtain ⟨t, f, h⟩ := rawSample_voice c rom preset v lcg
  simp [soundVoice, scaled, h]

/-- A sounded frame leaves the voice the raw sample leaves, with the phase it started from advanced (R185). -/
theorem soundVoice_voice_eq : (soundVoice c rom preset v lcg).voice =
    { (rawSample c rom preset v lcg).voice with phase := frac (fadd v.phase v.inc) } := by
  obtain ⟨t, f, h⟩ := rawSample_voice c rom preset v lcg
  simp [soundVoice, phaseAdvance, h]

theorem soundVoice_lcg : (soundVoice c rom preset v lcg).lcg = if preset = 2#2 then lcgNext lcg else lcg :=
  rawSample_lcg c rom preset v lcg

end VoiceFrame

/-- Settles O38: the three cases of R187. The envelope step writes neither phase, increment nor gain, and the raw sample
neither level nor stage. -/
theorem voiceFrameStepsEnvelopeThenSamplesThenAdvances :
    Obligations.VoiceFrameStepsEnvelopeThenSamplesThenAdvances := by
  intro c rom preset v lcg
  refine ⟨voiceFrame_of_inactive c rom preset v lcg, voiceFrame_of_ended c rom preset v lcg, fun h he => ?_⟩
  obtain ⟨t, f, hs⟩ := soundVoice_voice c rom preset (envStep c v) lcg
  obtain ⟨hphase, hinc, hgain⟩ :
      (envStep c v).phase = v.phase ∧ (envStep c v).inc = v.inc ∧ (envStep c v).velGain = v.velGain := by
    obtain ⟨b, st, l, hv⟩ := envStep_voice c v
    rw [hv]
    exact ⟨rfl, rfl, rfl⟩
  rw [voiceFrame_of_sounding c rom preset v lcg h he, ← hphase, ← hinc, ← hgain]
  exact ⟨soundVoice_sample .., by rw [hs], by rw [hs], by rw [hs], soundVoice_voice_eq .., soundVoice_lcg ..⟩

/-! What a voice frame, a frame and a render leave of the auxiliary state of the other presets (R186). -/

section VoiceFrameKeeps

variable (c : Config) (rom : List F32) {preset : BitVec 2} (v : Voice) (lcg : BitVec 32)

theorem voiceFrame_lcg_of_ne (h : preset ≠ 2#2) : (voiceFrame c rom preset v lcg).lcg = lcg := by
  rcases voiceFrame_cases c rom preset v lcg with ⟨-, hf⟩ | ⟨-, -, hf⟩ | ⟨-, -, hf⟩ <;> rw [hf]
  rw [soundVoice_lcg, if_neg h]

/-- A voice frame writes the auxiliary fields of its voice only through the raw sample. -/
theorem voiceFrame_transient_of_ne (h : preset ≠ 2#2) :
    (voiceFrame c rom preset v lcg).voice.transient = v.transient := by
  obtain ⟨b, st, l, he⟩ := envStep_voice c v
  rcases voiceFrame_cases c rom preset v lcg with ⟨-, hf⟩ | ⟨-, -, hf⟩ | ⟨-, -, hf⟩ <;> rw [hf]
  · rw [he]
  · rw [soundVoice_voice_eq, rawSample_transient, if_neg h, he]

theorem voiceFrame_filt_of_ne (h : preset ≠ 3#2) : (voiceFrame c rom preset v lcg).voice.filt = v.filt := by
  obtain ⟨b, st, l, he⟩ := envStep_voice c v
  rcases voiceFrame_cases c rom preset v lcg with ⟨-, hf⟩ | ⟨-, -, hf⟩ | ⟨-, -, hf⟩ <;> rw [hf]
  · rw [he]
  · rw [soundVoice_voice_eq, rawSample_filt, if_neg h, he]

end VoiceFrameKeeps

/-- Under another preset no voice of the sum steps the generator. -/
theorem voiceSum_lcg_of_ne {s : State} (h : s.preset ≠ 2#2) : (voiceSum s).state.lcg = s.lcg := by
  have hsum : (voiceSum s).state.preset = s.preset ∧ (voiceSum s).state.lcg = s.lcg := by
    refine voiceSum_induction (P := fun p => p.state.preset = s.preset ∧ p.state.lcg = s.lcg) s ⟨rfl, rfl⟩ ?_
    rintro p i ⟨hpreset, hlcg⟩
    refine ⟨hpreset, ?_⟩
    rw [← hlcg]
    exact voiceFrame_lcg_of_ne _ _ _ _ (hpreset ▸ h)
  exact hsum.2

/-- The end of a frame does not write the generator (R205). -/
theorem finishFrame_lcg (last : Bool) (p : Sum) : (finishFrame last p).lcg = p.state.lcg := by
  obtain ⟨m, k, he⟩ := echoNext_state p.state (mixed p.state p.sum)
  rw [finishFrame, he]
  rfl

/-- From `s` to `t` the preset stands, and with it the auxiliary state of the presets not selected (R186). -/
structure AuxiliaryStands (s t : State) : Prop where
  preset : t.preset = s.preset
  lcg : s.preset ≠ 2#2 → t.lcg = s.lcg
  transient : s.preset ≠ 2#2 → ∀ i : Fin 8, (t.voice i).transient = (s.voice i).transient
  filt : s.preset ≠ 3#2 → ∀ i : Fin 8, (t.voice i).filt = (s.voice i).filt

namespace AuxiliaryStands

variable {s t u : State}

theorem refl (s : State) : AuxiliaryStands s s := ⟨rfl, fun _ => rfl, fun _ _ => rfl, fun _ _ => rfl⟩

theorem trans (h : AuxiliaryStands s t) (h' : AuxiliaryStands t u) : AuxiliaryStands s u where
  preset := h'.preset.trans h.preset
  lcg hp := (h'.lcg (h.preset ▸ hp)).trans (h.lcg hp)
  transient hp i := (h'.transient (h.preset ▸ hp) i).trans (h.transient hp i)
  filt hp i := (h'.filt (h.preset ▸ hp) i).trans (h.filt hp i)

/-- One frame keeps it, slot by slot and for the generator. -/
theorem of_frame {last : Bool} (h : frame last s = .next t) : AuxiliaryStands s t where
  preset := by
    obtain ⟨vs, l, m, k, w, rfl⟩ := frame_state h
    rfl
  lcg hp := by
    obtain ⟨-, rfl⟩ := frame_eq_next h
    rw [finishFrame_lcg, voiceSum_lcg_of_ne hp]
  transient hp i := by
    obtain ⟨lcg, hv⟩ := frame_voice h i
    rw [hv, voiceFrame_transient_of_ne _ _ _ _ hp]
  filt hp i := by
    obtain ⟨lcg, hv⟩ := frame_voice h i
    rw [hv, voiceFrame_filt_of_ne _ _ _ _ hp]

end AuxiliaryStands

/-- Settles O37, frame by frame. -/
theorem auxiliaryStateOfOtherPresetsStands : Obligations.AuxiliaryStateOfOtherPresetsStands := by
  intro s t ht
  have h : AuxiliaryStands s t :=
    runFrames_induction (P := AuxiliaryStands s) (fun _ _ _ hf hs => hs.trans (.of_frame hf)) ht (.refl s)
  exact ⟨fun hp => ⟨h.lcg hp, h.transient hp⟩, h.filt⟩

end Sys2Proof.PresetSynthesis
end

section
/-! SUPPORT. The echo step (R195 to R199): what an enabled and a disabled echo return and leave, and the exact values of
the mix at feedback 0 and mix 1. Comparison, not identity of patterns, is what holds there: a product with +0.0 can be a
zero of either sign, so a `-0.0` input can come out as `+0.0`. -/

namespace Sys2Proof.EchoStep

open Sys2Proof.Machine Sys2Proof.Rounding Sys2Proof.StateInvariants Sys2Proof.EchoMemory Sys2Proof.WavetableIndex

variable {s : State} {x : F32}

/-! Disabled and enabled (R195, R196). -/

theorem echoOut_of_off (h : s.echoOn = false) : echoOut s x = x := by
  simp [echoOut, h]

theorem echoNext_of_off (h : s.echoOn = false) : echoNext s x = s := by
  simp [echoNext, h]

/-- Settles O46. -/
theorem disabledEchoIsTransparent : Obligations.DisabledEchoIsTransparent :=
  fun _ _ h => ⟨echoOut_of_off h, echoNext_of_off h⟩

/-- With tap Y the wet signal is what the line records (R195, R198). -/
theorem echoOut_of_tapY (h : s.echoOn = true) (htap : s.cfg.wetTap = .y) :
    echoOut s x = echoMixed s x (echoY s x) := by
  simp [echoOut, echoWet, h, htap]

/-- With tap D the wet signal is the delayed sample (R195, R198). -/
theorem echoOut_of_tapD (h : s.echoOn = true) (htap : s.cfg.wetTap = .d) :
    echoOut s x = echoMixed s x (EchoRam.read s.echoRam s.echoIdx) := by
  simp [echoOut, echoWet, h, htap]

/-- The echo RAM after an enabled step, cell by cell (R195). -/
theorem read_echoNext (h : s.echoOn = true) (hwf : EchoRam.wf s.echoRam = true) (a : Nat) :
    EchoRam.read (echoNext s x).echoRam a = if a = s.echoIdx then echoY s x else EchoRam.read s.echoRam a := by
  rw [echoNext_echoRam, if_pos h, EchoRam.read_write _ _ _ hwf]

/-- On an index in range the wrap is a remainder (R195). -/
theorem echoNextIdx_eq_mod (h : s.echoIdx < s.echoLen) : echoNextIdx s = (s.echoIdx + 1) % s.echoLen := by
  unfold echoNextIdx
  split_ifs with hwrap
  · rw [show s.echoIdx + 1 = s.echoLen by omega, Nat.mod_self]
  · rw [Nat.mod_eq_of_lt (by omega)]

/-- An echo step writes no field but the echo RAM and the index (R195). -/
theorem echoNext_frame (s : State) (x : F32) :
    echoNext s x = { s with echoRam := (echoNext s x).echoRam, echoIdx := (echoNext s x).echoIdx } := by
  obtain ⟨m, k, h⟩ := echoNext_state s x
  rw [h]

/-- Settles O47, with `echoY` for the cell written and `echoMixed` for the output. -/
theorem enabledEchoWritesOneCell : Obligations.EnabledEchoWritesOneCell := by
  rintro s x hon ⟨-, -, -, hidx⟩ hwf
  refine ⟨EchoRam.read s.echoRam s.echoIdx, echoY s x, rfl, rfl, ?_, ?_, ?_, echoNext_frame s x,
    echoOut_of_tapY hon, echoOut_of_tapD hon⟩
  · rw [read_echoNext hon hwf, if_pos rfl]
  · intro a ha
    rw [read_echoNext hon hwf, if_neg ha]
  · rw [echoNext_echoIdx, if_pos hon, echoNextIdx_eq_mod hidx]

/-! Feedback 0 and mix 1 (R198, R199): each operation is exact in value. -/

/-- `r` is finite and has the value of `a`: the same pattern, but for the sign of a zero. -/
def SameValue (r a : F32) : Prop := isFinite r = true ∧ units r = units a

theorem SameValue.feq {r a : F32} (h : SameValue r a) (ha : isFinite a = true) : feq r a = true := by
  obtain ⟨hr, hu⟩ := h
  have hr := not_nan_of_finite hr
  have ha := not_nan_of_finite ha
  simp [Machine.feq, fle_iff_units hr ha, fle_iff_units ha hr, hu]

variable {a b w : F32}

theorem sameValue_zero_fmul (ha : isFinite a = true) : SameValue (fmul Lit.zero a) Lit.zero :=
  finite_and_units_eq_of_rounds (rounds_fmul (by decide) ha) (by decide) (by simp [units_zero])

theorem sameValue_one_fmul (ha : isFinite a = true) : SameValue (fmul Lit.one a) a :=
  finite_and_units_eq_of_rounds (rounds_fmul (by decide) ha) ha
    (by rw [units_one, mul_comm]; norm_num)

theorem sameValue_fadd_zero (ha : isFinite a = true) (hb : SameValue b Lit.zero) : SameValue (fadd a b) a := by
  obtain ⟨hb, hu⟩ := hb
  exact finite_and_units_eq_of_rounds (rounds_fadd ha hb) ha (by simp [hu, units_zero])

theorem sameValue_zero_fadd (ha : SameValue a Lit.zero) (hb : SameValue b w) (hw : isFinite w = true) :
    SameValue (fadd a b) w := by
  obtain ⟨ha, hau⟩ := ha
  obtain ⟨hb, hbu⟩ := hb
  exact finite_and_units_eq_of_rounds (rounds_fadd ha hb) hw (by simp [hau, hbu, units_zero])

/-- At feedback 0 the line records the input (R199). -/
theorem sameValue_echoY (hfb : s.echoFb = Lit.zero) (hx : isFinite x = true)
    (hd : isFinite (EchoRam.read s.echoRam s.echoIdx) = true) : SameValue (echoY s x) x := by
  rw [echoY, hfb]
  exact sameValue_fadd_zero hx (sameValue_zero_fmul hd)

/-- At mix 1 the output is the wet signal (R198). -/
theorem sameValue_echoMixed (hmix : s.echoMix = Lit.one) (hx : isFinite x = true) (hw : isFinite w = true) :
    SameValue (echoMixed s x w) w := by
  have hdry : fsub Lit.one Lit.one = Lit.zero := by decide +kernel
  rw [echoMixed, hmix, hdry]
  exact sameValue_zero_fadd (sameValue_zero_fmul hx) (sameValue_one_fmul hw) hw

/-- Settles O48: the line records the input's value, and the mix passes on the tap's. -/
theorem zeroFeedbackEchoByWetTap : Obligations.ZeroFeedbackEchoByWetTap := by
  intro s x hon hwf hfb hmix hx hd
  have hy : SameValue (echoY s x) x := sameValue_echoY hfb hx hd
  refine ⟨fun htap => ?_, fun htap => ?_, ?_⟩
  · have hout := sameValue_echoMixed hmix hx hy.1
    rw [echoOut_of_tapY hon htap]
    exact SameValue.feq ⟨hout.1, hout.2.trans hy.2⟩ hx
  · rw [echoOut_of_tapD hon htap]
    exact (sameValue_echoMixed hmix hx hd).feq hd
  · rw [read_echoNext hon hwf, if_pos rfl]
    exact hy.feq hx

end Sys2Proof.EchoStep
end

section
/-! SUPPORT. The end of the signal path (R208 to R210): the limiter and the quantiser are bounded and odd, so every word
a frame sends carries one sample in full scale on both channels, and so does every word a step sends (R213). -/

namespace Sys2Proof.OutputStage

open Sys2Proof.Machine Sys2Proof.Rounding Sys2Proof.SignalBounds Sys2Proof.StepRules Sys2Proof.EchoMemory
open Sys2Proof.ParameterSetters

/-! Sign and magnitude (R13). -/

/-- A pattern is its sign and its magnitude. -/
theorem ext_sign_mag {a b : F32} (hs : signBit a = signBit b) (hm : magBits a = magBits b) : a = b := by
  have ha := a.isLt
  have hb := b.isLt
  rw [signBit_eq, signBit_eq, decide_eq_decide] at hs
  rw [magBits_eq_mod, magBits_eq_mod] at hm
  exact BitVec.eq_of_toNat_eq (by omega)

@[simp] theorem fneg_fneg (a : F32) : fneg (fneg a) = a := by
  simp [fneg]

@[simp] theorem magUnits_fneg (a : F32) : magUnits (fneg a) = magUnits a :=
  magUnits_eq_of_magBits_eq (magBits_fneg a)

/-- Rounding to nearest even treats both signs alike (R13). -/
theorem rn_not (neg : Bool) (num den : Nat) : rn (!neg) num den = fneg (rn neg num den) :=
  ext_sign_mag (by simp [signBit_rn]) (by simp [magBits_rn])

/-- The patterns of value zero are the two zeros (R14). -/
theorem eq_zero_of_units_eq_zero {x : F32} (h : units x = 0) : x = 0#32 ∨ x = 0x80000000#32 := by
  have hm : magBits x = 0 := magBits_eq_zero_iff.mpr (by unfold units at h; split_ifs at h <;> omega)
  cases hs : signBit x with
  | false => exact Or.inl (ext_sign_mag (hs.trans (by decide)) (hm.trans (by decide)))
  | true => exact Or.inr (ext_sign_mag (hs.trans (by decide)) (hm.trans (by decide)))

/-! The limiter (R17, R208). -/

theorem tanhMag_not_nan {m : F32} (h : isNan m = false) : isNan (tanhMag m) = false := by
  unfold tanhMag
  split_ifs
  · exact h
  · decide
  · exact (rounds_rn _ _ (by unfold fixOne; positivity)).not_nan

theorem tanhRef_not_nan {x : F32} (h : isNan x = false) : isNan (tanhRef x) = false := by
  cases hs : signBit x <;> simp [tanhRef, h, hs, tanhMag_not_nan]

/-- `TANH` is odd off the NaNs, the zeros included (R17). -/
theorem tanhRef_fneg {x : F32} (h : isNan x = false) : tanhRef (fneg x) = fneg (tanhRef x) := by
  cases hs : signBit x <;> simp [tanhRef, h, hs]

/-- Off the NaNs a clamp compares the exact values (R14, R16). -/
theorem clampf_eq_ite_units {x lo hi : F32} (hx : isNan x = false) (hlo : isNan lo = false) (hhi : isNan hi = false) :
    clampf x lo hi = if units x < units lo then lo else if units hi < units x then hi else x := by
  simp only [clampf_eq_ite, ← Bool.not_eq_true, fge, fgt, fle_iff_units hlo hx, flt_iff_units hhi hx, not_le]

/-- A clamp to a symmetric interval is odd off the NaNs. -/
theorem clampf_fneg {x b : F32} (hx : isNan x = false) (hb : isNan b = false) (h0 : 0 ≤ units b) :
    clampf (fneg x) (fneg b) b = fneg (clampf x (fneg b) b) := by
  have hxn := (isNan_fneg x).trans hx
  have hbn := (isNan_fneg b).trans hb
  rw [clampf_eq_ite_units hxn hbn hb, clampf_eq_ite_units hx hbn hb, units_fneg, units_fneg]
  rcases lt_or_ge (units x) (-units b) with hlow | hlow
  · rw [if_neg (by omega), if_pos (by omega), if_pos hlow, fneg_fneg]
  · rcases lt_or_ge (units b) (units x) with hhigh | hhigh
    · rw [if_pos (by omega), if_neg (by omega), if_pos hhigh]
    · rw [if_neg (by omega), if_neg (by omega), if_neg (by omega), if_neg (by omega)]

/-- Whatever the echo gives, a NaN included, the limiter answers in `[-1, 1]` (R208). -/
theorem inRange_limit (e : F32) : inRange (limit e) Lit.minusOne Lit.one = true := inRange_clampf _ (by decide)

theorem limit_fneg {e : F32} (h : isNan e = false) : limit (fneg e) = fneg (limit e) := by
  have hone : Lit.minusOne = fneg Lit.one := by decide
  rw [limit, limit, tanhRef_fneg h, hone]
  exact clampf_fneg (tanhRef_not_nan h) (by decide) (by decide +kernel)

/-- Settles O49: the bound is the clamp's, and both `TANH` and the clamp are odd. -/
theorem limiterIsBoundedAndOdd : Obligations.LimiterIsBoundedAndOdd := fun e => ⟨inRange_limit e, limit_fneg⟩

/-! The quantiser (R209). -/

theorem units_c32767 : units Lit.c32767 = 32767 * 2 ^ 149 := by decide +kernel

/-- A product of finite values changes its sign with a factor. -/
theorem fmul_fneg_left {a b : F32} (ha : isFinite a = true) (hb : isFinite b = true) :
    fmul (fneg a) b = fneg (fmul a b) := by
  have ha' := (isFinite_fneg a).trans ha
  simp only [fmul, not_nan_of_finite ha, not_nan_of_finite ha', not_nan_of_finite hb, not_inf_of_finite ha,
    not_inf_of_finite ha', not_inf_of_finite hb, Bool.or_self, Bool.false_eq_true, if_false, signBit_fneg,
    magUnits_fneg, ← rn_not]
  cases signBit a <;> cases signBit b <;> rfl

theorem ftrunc_of_finite {a : F32} (h : isFinite a = true) : ftrunc a = (units a).tdiv (2 ^ 149) := if_pos h

theorem ftrunc_fneg {a : F32} (h : isFinite a = true) : ftrunc (fneg a) = -ftrunc a := by
  rw [ftrunc_of_finite h, ftrunc_of_finite ((isFinite_fneg a).trans h), units_fneg, Int.neg_tdiv]

/-- Rounding toward zero stays within an integer bound (R15). -/
theorem abs_ftrunc_le {a : F32} {n : Nat} (h : isFinite a = true) (hu : |units a| ≤ n * 2 ^ 149) : |ftrunc a| ≤ n := by
  rw [ftrunc_of_finite h, Int.abs_eq_natAbs, Int.natAbs_tdiv]
  rw [Int.abs_eq_natAbs] at hu
  have hdiv : (units a).natAbs / 2 ^ 149 ≤ n := Nat.div_le_of_le_mul (by rw [Nat.mul_comm]; exact_mod_cast hu)
  exact_mod_cast hdiv

section Quantise

variable {c : F32} (h : inRange c Lit.minusOne Lit.one = true)
include h

/-- A limited sample times 32767.0 is at most 32767.0 in magnitude. -/
theorem magLe_fmul_c32767 : magLe (fmul c Lit.c32767) Lit.c32767 = true :=
  magLe_fmul (B := Lit.c32767) (show magLe c Lit.one = true from h) (by decide) (by decide +kernel)

theorem quantise_bounds : -32767 ≤ quantise c ∧ quantise c ≤ 32767 := by
  have hm := magLe_fmul_c32767 h
  obtain ⟨-, -, hu⟩ := magLe_iff.mp hm
  exact abs_le.mp (abs_ftrunc_le (n := 32767) (isFinite_of_magLe hm (by decide)) (units_c32767 ▸ hu))

theorem quantise_fneg : quantise (fneg c) = -quantise c := by
  have hc : isFinite c = true := isFinite_of_magLe (show magLe c Lit.one = true from h) (by decide)
  rw [quantise, fmul_fneg_left hc (by decide)]
  exact ftrunc_fneg (isFinite_of_magLe (magLe_fmul_c32767 h) (by decide))

end Quantise

/-- Settles O50: the product with 32767.0 and the truncation keep the bound and are odd. -/
theorem quantiserIsBoundedAndOdd : Obligations.QuantiserIsBoundedAndOdd := fun _ h =>
  ⟨(quantise_bounds h).1, (quantise_bounds h).2, quantise_fneg h⟩

/-! The words sent (R210, R213). -/

/-- One sample on both channels, within full scale (R209, R210). -/
def MonoInFullScale (w : FrameWord) : Prop :=
  w.extractLsb' 16 16 = w.extractLsb' 0 16 ∧ -32767 ≤ (w.extractLsb' 0 16).toInt ∧ (w.extractLsb' 0 16).toInt ≤ 32767

theorem outWord_left (q : Int) : (outWord q).extractLsb' 0 16 = BitVec.ofInt 16 q :=
  BitVec.extractLsb'_append_eq_right

theorem outWord_right (q : Int) : (outWord q).extractLsb' 16 16 = BitVec.ofInt 16 q :=
  BitVec.extractLsb'_append_eq_left

theorem monoInFullScale_outWord {q : Int} (h : -32767 ≤ q ∧ q ≤ 32767) : MonoInFullScale (outWord q) := by
  have hq : (BitVec.ofInt 16 q).toInt = q := by
    rw [BitVec.toInt_ofInt]
    exact Int.bmod_eq_of_le (by omega) (by omega)
  rw [MonoInFullScale, outWord_left, outWord_right, hq]
  exact ⟨rfl, h⟩

/-- The word of a frame, whatever sample the mix gives. -/
theorem monoInFullScale_frameWord (s : State) (x : F32) : MonoInFullScale (frameWord s x) :=
  monoInFullScale_outWord (quantise_bounds (inRange_limit _))

/-- The word a frame from `s` sends: that of the mixed sample, on the state the voice sum leaves (R205). -/
def sentWord (s : State) : FrameWord := frameWord (voiceSum s).state (mixed (voiceSum s).state (voiceSum s).sum)

theorem frame_out {last : Bool} {s t : State} (h : frame last s = .next t) :
    t.out = s.out ++ [{ data := sentWord s, last := last }] := by
  obtain ⟨-, rfl⟩ := frame_eq_next h
  obtain ⟨m, k, he⟩ := echoNext_state (voiceSum s).state (mixed (voiceSum s).state (voiceSum s).sum)
  obtain ⟨vs, l, hv⟩ := voiceSum_state s
  rw [finishFrame, State.emit_out, he, hv, sentWord, hv]

/-- From `s` to `t` the output has grown, by words of which `Q` holds. -/
def Sends (Q : FrameWord → Prop) (s t : State) : Prop := ∃ w, t.out = s.out ++ w ∧ ∀ f ∈ w, Q f.data

namespace Sends

variable {Q : FrameWord → Prop} {s t u : State}

theorem of_out_eq (h : t.out = s.out) : Sends Q s t := ⟨[], by simp [h], by simp⟩

theorem trans (h : Sends Q s t) (h' : Sends Q t u) : Sends Q s u := by
  obtain ⟨w, ho, hw⟩ := h
  obtain ⟨w', ho', hw'⟩ := h'
  exact ⟨w ++ w', by rw [ho', ho, List.append_assoc], List.forall_mem_append.mpr ⟨hw, hw'⟩⟩

theorem of_frame {last : Bool} (h : frame last s = .next t) (hq : Q (sentWord s)) : Sends Q s t :=
  ⟨_, frame_out h, by simpa using hq⟩

end Sends

/-- Settles O35: only a frame sends, and the reset keeps what was sent. -/
theorem everySentWordIsMonoAndInFullScale : Obligations.EverySentWordIsMonoAndInFullScale := by
  intro s t ht
  refine step_induction (P := Sends MonoInFullScale s) (fun _ _ h => h) (fun _ h => h) ?instr ?oneFrame ht
    (.of_out_eq rfl)
  case instr =>
    intro i u v hi hx h
    obtain ⟨-, -, -, hout, -⟩ := commandsLeaveMemoryAndOutputAlone i u v hi hx
    exact h.trans (.of_out_eq hout)
  case oneFrame =>
    intro last u v hx h
    exact h.trans (.of_frame hx (monoInFullScale_frameWord _ _))

end Sys2Proof.OutputStage
end

section
/-! SUPPORT. A render frame by frame (R205, R211): it completes while the echo cells exist, sends one word a frame and
marks the last, and writes of each slot, of the noise generator and of the echo line only what its frames write. -/

namespace Sys2Proof.RenderBlock

open Sys2Proof.Machine Sys2Proof.Rounding Sys2Proof.SignalBounds Sys2Proof.StepRules Sys2Proof.StateInvariants
open Sys2Proof.EchoMemory Sys2Proof.VoiceAllocator Sys2Proof.EchoStep Sys2Proof.OutputStage

/-! RENDER_SKIP (R212), and RENDER as a run of frames (R211). -/

theorem exec_renderSkip (s : State) : exec .renderSkip s = .next s := rfl

/-- Settles O29. -/
theorem skippedRenderChangesNothing : Obligations.SkippedRenderChangesNothing := ⟨exec_renderSkip, rfl⟩

theorem exec_render (s : State) : exec .render s = runFrames s.cfg.blockSize s.cfg.blockSize s := rfl

@[simp] theorem runFrames_zero (left : Nat) (s : State) : runFrames 0 left s = .next s := rfl

theorem runFrames_succ {n left : Nat} {s t : State} (h : frame (left == 1) s = .next t) :
    runFrames (n + 1) left s = runFrames n (left - 1) t := by
  rw [runFrames, h, andThen_next]

/-! The voice sum (R206). -/

/-- A fold that agrees with `addVoice` on the states of one build, table and preset is that of the voice sum: no voice
writes any of the three. -/
theorem foldl_eq_foldl_addVoice {turn : Sum → Fin 8 → Sum} {s : State}
    (hturn : ∀ p i, p.state.cfg = s.cfg → p.state.rom = s.rom → p.state.preset = s.preset → turn p i = addVoice p i)
    (l : List (Fin 8)) (p : Sum) (hc : p.state.cfg = s.cfg) (hr : p.state.rom = s.rom)
    (hp : p.state.preset = s.preset) : l.foldl turn p = l.foldl addVoice p := by
  induction l generalizing p with
  | nil => rfl
  | cons i l ih =>
    rw [List.foldl_cons, List.foldl_cons, hturn p i hc hr hp]
    exact ih (addVoice p i) hc hr hp

/-- Settles O32: a turn of the fold is `addVoice`, whether the voice contributes or not. -/
theorem voicesAreSummedInSlotOrder : Obligations.VoicesAreSummedInSlotOrder := by
  intro s
  refine (foldl_eq_foldl_addVoice (s := s) (fun p i hc hr hp => ?_) slots _ rfl rfl rfl).symm
  simp only [addVoice, hc, hr, hp]
  rcases voiceFrame s.cfg s.rom s.preset (p.state.voice i) p.state.lcg with ⟨v, l, _ | x⟩ <;> rfl

section VoiceSumKeeps

variable (s : State)

@[simp] theorem voiceSum_masterGain : (voiceSum s).state.masterGain = s.masterGain := by
  obtain ⟨vs, l, hv⟩ := voiceSum_state s
  rw [hv]

@[simp] theorem voiceSum_echoOn : (voiceSum s).state.echoOn = s.echoOn := by
  obtain ⟨vs, l, hv⟩ := voiceSum_state s
  rw [hv]

@[simp] theorem voiceSum_echoReachable : echoReachable (voiceSum s).state = echoReachable s := by
  obtain ⟨vs, l, hv⟩ := voiceSum_state s
  rw [hv]
  rfl

end VoiceSumKeeps

/-! A frame, and a run of frames, completes while the cell the echo addresses exists (R60, R62). -/

theorem frame_completes (last : Bool) {s : State} (h : s.echoOn = true → s.echoIdx < s.cfg.echoCap) :
    frame last s = .next (finishFrame last (voiceSum s)) := by
  refine if_pos ((voiceSum_echoReachable s).trans ?_)
  cases hon : s.echoOn with
  | false => simp [echoReachable, hon]
  | true => simpa [echoReachable, hon] using h hon

theorem frame_echoOn {last : Bool} {s t : State} (h : frame last s = .next t) : t.echoOn = s.echoOn := by
  obtain ⟨vs, l, m, k, w, rfl⟩ := frame_state h
  rfl

/-- The echo is off, or its registers are in range. -/
def EchoReady (s : State) : Prop := s.echoOn = true → EchoIndexInv s

theorem EchoReady.of_off {s : State} (h : s.echoOn = false) : EchoReady s := by simp [EchoReady, h]

theorem EchoReady.frame_completes {s : State} (h : EchoReady s) (last : Bool) :
    ∃ t, frame last s = .next t ∧ EchoReady t := by
  have hf : frame last s = .next (finishFrame last (voiceSum s)) := RenderBlock.frame_completes last fun hon => by
    obtain ⟨hcap, -, hlen, hidx⟩ := h hon
    omega
  exact ⟨_, hf, fun hon => echoIndexInv_frame hf (h (frame_echoOn hf ▸ hon))⟩

theorem EchoReady.runFrames_completes {s : State} (h : EchoReady s) (n left : Nat) :
    ∃ t, runFrames n left s = .next t := by
  induction n generalizing s left with
  | zero => exact ⟨s, rfl⟩
  | succ n ih =>
    obtain ⟨u, hf, hu⟩ := h.frame_completes (left == 1)
    rw [runFrames_succ hf]
    exact ih hu (left - 1)

/-- The end of a frame writes the echo step's RAM and index over what the voice sum leaves (R205). -/
theorem finishFrame_fields (last : Bool) (p : Sum) :
    (finishFrame last p).voices = p.state.voices ∧ (finishFrame last p).lcg = p.state.lcg ∧
      (finishFrame last p).echoRam = (echoNext p.state (mixed p.state p.sum)).echoRam ∧
      (finishFrame last p).echoIdx = (echoNext p.state (mixed p.state p.sum)).echoIdx := by
  obtain ⟨m, k, he⟩ := echoNext_state p.state (mixed p.state p.sum)
  rw [finishFrame, he]
  exact ⟨rfl, rfl, rfl, rfl⟩

/-- Settles O31: a block of one frame is that frame, marked last. -/
theorem frameFollowsTheDataFlow : Obligations.FrameFollowsTheDataFlow := by
  intro s hblock hcell
  have hframe := frame_completes true hcell
  have hexec : exec .render s = .next (finishFrame true (voiceSum s)) := by
    rw [exec_render, hblock, runFrames_succ (left := 1) hframe, runFrames_zero]
  have hmix : mixed (voiceSum s).state (voiceSum s).sum = fmul (fmul (voiceSum s).sum 0x3EB504F3#32) s.masterGain := by
    rw [mixed, voiceSum_masterGain, normFactor]
  rw [← hmix]
  obtain ⟨hvoices, hlcg, hram, hidx⟩ := finishFrame_fields true (voiceSum s)
  refine ⟨_, _, hexec, rfl, ⟨_, rfl, frame_out hframe⟩, hvoices, hlcg, hram, hidx, ?_⟩
  obtain ⟨vs, l, m, k, w, ht⟩ := frame_state hframe
  rw [ht]
  rfl

/-! The words of a block and their marks (R101, R211). -/

/-- The mark of the first of `left` frames still to send. -/
theorem beq_one_eq_decide (left : Nat) : (left == 1) = decide (0 + 1 = left) := decide_eq_decide.mpr eq_comm

/-- The words of a run of `n` frames, of which the first has `left` frames of its block still to send: the mark stands
on the frame that has one. -/
theorem runFrames_marks {n left : Nat} {s t : State} (h : runFrames n left s = .next t) :
    ∃ w, t.out = s.out ++ w ∧ w.length = n ∧
      ∀ (k : Nat) (f : OutFrame), w[k]? = some f → f.last = decide (k + 1 = left) := by
  induction n generalizing left s with
  | zero =>
    injection h with h
    exact ⟨[], by simp [h], rfl, by simp⟩
  | succ n ih =>
    obtain ⟨u, hu, ht⟩ := runFrames_succ_eq_next h
    obtain ⟨w, hout, hlen, hmark⟩ := ih ht
    refine ⟨{ data := sentWord s, last := left == 1 } :: w, by rw [hout, frame_out hu]; simp, by simp [hlen], ?_⟩
    rintro (_ | k) f hf
    · obtain rfl : _ = f := Option.some.inj hf
      exact beq_one_eq_decide left
    · rw [hmark k f hf, decide_eq_decide]
      omega

/-! The voices (R187, R205). -/

/-- What a render leaves of a slot (R187): note, age, increment and gain of a voice, and all of a free slot. -/
structure SlotStands (v v' : Voice) : Prop where
  note : v'.note = v.note
  age : v'.age = v.age
  inc : v'.inc = v.inc
  velGain : v'.velGain = v.velGain
  free : v.active = false → v' = v

namespace SlotStands

theorem refl (v : Voice) : SlotStands v v := ⟨rfl, rfl, rfl, rfl, fun _ => rfl⟩

theorem trans {v v' v'' : Voice} (h : SlotStands v v') (h' : SlotStands v' v'') : SlotStands v v'' where
  note := h'.note.trans h.note
  age := h'.age.trans h.age
  inc := h'.inc.trans h.inc
  velGain := h'.velGain.trans h.velGain
  free hv := by
    have hsame := h.free hv
    rw [h'.free (by rw [hsame, hv]), hsame]

theorem of_voiceFrame (c : Config) (rom : List F32) (preset : BitVec 2) (v : Voice) (lcg : BitVec 32) :
    SlotStands v (voiceFrame c rom preset v lcg).voice := by
  obtain ⟨b, st, l, he⟩ := envStep_voice c v
  rcases voiceFrame_cases c rom preset v lcg with ⟨-, hf⟩ | ⟨ha, -, hf⟩ | ⟨ha, -, hf⟩ <;> rw [hf]
  · exact .refl v
  · rw [he]
    exact ⟨rfl, rfl, rfl, rfl, fun hn => by simp [ha] at hn⟩
  · obtain ⟨tr, fi, hs⟩ := soundVoice_voice c rom preset (envStep c v) lcg
    rw [hs, he]
    exact ⟨rfl, rfl, rfl, rfl, fun hn => by simp [ha] at hn⟩

end SlotStands

theorem runFrames_slotStands {n left : Nat} {s t : State} (h : runFrames n left s = .next t) (i : Fin 8) :
    SlotStands (s.voice i) (t.voice i) := by
  refine runFrames_induction (P := fun u => SlotStands (s.voice i) (u.voice i)) ?_ h (.refl _)
  intro last u v hf hu
  obtain ⟨lcg, hv⟩ := frame_voice hf i
  rw [hv]
  exact hu.trans (.of_voiceFrame ..)

/-! The echo line (R195, R196). -/

/-- A write leaves every other cell, in canonical form or not. -/
theorem read_write_of_ne {k j : Nat} (h : j ≠ k) (m : EchoRam) (x : F32) :
    EchoRam.read (EchoRam.write m k x) j = EchoRam.read m j := by
  induction m with
  | nil => by_cases hx : x = 0#32 <;> simp [EchoRam.write, EchoRam.read_cons, hx, h]
  | cons c m ih =>
    obtain ⟨a, v⟩ := c
    rw [EchoRam.write]
    split_ifs with hlt hx heq hx
    · rfl
    · rw [EchoRam.read_cons, if_neg h]
    · rw [EchoRam.read_cons, if_neg (heq ▸ h)]
    · rw [EchoRam.read_cons, EchoRam.read_cons, if_neg (heq ▸ h), if_neg (heq ▸ h)]
    · rw [EchoRam.read_cons, EchoRam.read_cons, ih]

theorem frame_read_of_ne {last : Bool} {s t : State} (h : frame last s = .next t) {a : Nat} (ha : a ≠ s.echoIdx) :
    EchoRam.read t.echoRam a = EchoRam.read s.echoRam a := by
  rcases frame_echoRam h with hram | ⟨y, hram⟩ <;> rw [hram]
  exact read_write_of_ne ha _ y

theorem frame_echoRam_of_off {last : Bool} {s t : State} (h : frame last s = .next t) (hoff : s.echoOn = false) :
    t.echoRam = s.echoRam := by
  obtain ⟨-, rfl⟩ := frame_eq_next h
  obtain ⟨vs, l, hv⟩ := voiceSum_state s
  rw [finishFrame, State.emit_echoRam, echoNext_of_off (by simp [hoff]), hv]

/-- With the echo off a run of frames leaves its RAM and its index (R196). -/
theorem runFrames_echo_of_off {n left : Nat} {s t : State} (h : runFrames n left s = .next t)
    (hoff : s.echoOn = false) : t.echoOn = false ∧ t.echoIdx = s.echoIdx ∧ t.echoRam = s.echoRam := by
  refine runFrames_induction (P := fun u => u.echoOn = false ∧ u.echoIdx = s.echoIdx ∧ u.echoRam = s.echoRam) ?_ h
    ⟨hoff, rfl, rfl⟩
  rintro last u v hf ⟨hu, hidx, hram⟩
  refine ⟨(frame_echoOn hf).trans hu, ?_, (frame_echoRam_of_off hf hu).trans hram⟩
  rw [frame_echoIdx hf, hu]
  exact hidx

/-- With the echo on the index advances by the number of frames, and only the cells it passes over are written
(R195). -/
theorem runFrames_echo_of_on {n left : Nat} {s t : State} (h : runFrames n left s = .next t)
    (hon : s.echoOn = true) (hidx : s.echoIdx < s.echoLen) :
    t.echoIdx = (s.echoIdx + n) % s.echoLen ∧
      ∀ a : Nat, (∀ k < n, a ≠ (s.echoIdx + k) % s.echoLen) → EchoRam.read t.echoRam a = EchoRam.read s.echoRam a := by
  induction n generalizing left s with
  | zero =>
    injection h with h
    subst h
    exact ⟨(Nat.mod_eq_of_lt hidx).symm, fun _ _ => rfl⟩
  | succ n ih =>
    obtain ⟨u, hu, ht⟩ := runFrames_succ_eq_next h
    have hlen : u.echoLen = s.echoLen := by
      obtain ⟨vs, l, m, k, w, rfl⟩ := frame_state hu
      rfl
    have hnext : u.echoIdx = (s.echoIdx + 1) % s.echoLen := by
      rw [frame_echoIdx hu, if_pos hon, echoNextIdx_eq_mod hidx]
    have hlt : u.echoIdx < u.echoLen := by
      rw [hnext, hlen]
      exact Nat.mod_lt _ (by omega)
    obtain ⟨hend, hcells⟩ := ih ht ((frame_echoOn hu).trans hon) hlt
    have hpass : ∀ k, (u.echoIdx + k) % u.echoLen = (s.echoIdx + (k + 1)) % s.echoLen := fun k => by
      rw [hnext, hlen, Nat.mod_add_mod, Nat.add_assoc, Nat.add_comm 1]
    refine ⟨hend.trans (hpass n), fun a ha => ?_⟩
    have hfirst : a ≠ s.echoIdx := by
      have := ha 0 (Nat.succ_pos n)
      rwa [Nat.add_zero, Nat.mod_eq_of_lt hidx] at this
    rw [hcells a fun k hk => hpass k ▸ ha (k + 1) (Nat.succ_lt_succ hk), frame_read_of_ne hu hfirst]

/-- Settles O30, part by part of what the run of frames leaves. -/
theorem renderSendsOneBlock : Obligations.RenderSendsOneBlock := by
  intro s hecho
  obtain ⟨t, ht⟩ := EchoReady.runFrames_completes (s := s) hecho s.cfg.blockSize s.cfg.blockSize
  obtain ⟨w, hout, hlen, hmark⟩ := runFrames_marks ht
  refine ⟨t, w, ht, hout, hlen, hmark, ?_, fun i => ?_, fun hoff => ?_, fun hon => ?_⟩
  · obtain ⟨vs, l, m, k, o, rfl, -⟩ := runFrames_state ht
    rfl
  · have h := runFrames_slotStands ht i
    exact ⟨h.note, h.age, h.inc, h.velGain, h.free⟩
  · obtain ⟨-, hidx, hram⟩ := runFrames_echo_of_off ht hoff
    exact ⟨hidx, fun a => by rw [hram]⟩
  · obtain ⟨-, -, -, hidx⟩ := hecho hon
    exact runFrames_echo_of_on ht hon hidx

/-! Silence: a mixed sample of value zero is sent as the word 0 (R208 to R210). -/

theorem outWord_of_positive_zero : outWord (quantise (limit 0#32)) = 0#32 := by decide +kernel

theorem outWord_of_negative_zero : outWord (quantise (limit 0x80000000#32)) = 0#32 := by decide +kernel

theorem frameWord_of_zero {s : State} {x : F32} (hoff : s.echoOn = false) (hx : units x = 0) :
    frameWord s x = 0#32 := by
  rw [frameWord, echoOut_of_off hoff]
  obtain rfl | rfl := eq_zero_of_units_eq_zero hx
  · exact outWord_of_positive_zero
  · exact outWord_of_negative_zero

/-- A product of finite values with a factor of value zero has value zero. -/
theorem units_fmul_eq_zero {a b : F32} (ha : isFinite a = true) (hb : isFinite b = true)
    (h : units a = 0 ∨ units b = 0) : units (fmul a b) = 0 := by
  have hprod : units a * units b = units Lit.zero * (2 ^ 149 : Nat) := by
    rw [units_zero, zero_mul]
    exact mul_eq_zero.mpr h
  exact ((rounds_fmul ha hb).eq (by decide) hprod).trans units_zero

/-- An idle frame sends 0 and changes nothing else (R211). -/
theorem frame_of_idle (last : Bool) {s : State} (hv : ∀ i : Fin 8, (s.voice i).active = false)
    (hoff : s.echoOn = false) (hgain : inRange s.masterGain Lit.zero Lit.one = true) :
    frame last s = .next (s.emit { data := 0#32, last := last }) := by
  have hnorm : fmul Lit.zero normFactor = Lit.zero := by decide +kernel
  have hmix : units (mixed s Lit.zero) = 0 := by
    rw [mixed, hnorm]
    exact units_fmul_eq_zero (by decide) (isFinite_of_unit hgain) (Or.inl units_zero)
  rw [frame_completes last (by simp [hoff]), voiceSum_of_inactive hv, finishFrame, echoNext_of_off hoff,
    frameWord_of_zero hoff hmix]

/-- `n` zero words, of which the first has `left` frames of its block still to send. -/
def zeroWords (n left : Nat) : List OutFrame :=
  (List.range n).map fun k => { data := 0#32, last := decide (k + 1 = left) }

theorem zeroWords_succ (n left : Nat) :
    zeroWords (n + 1) left = { data := 0#32, last := left == 1 } :: zeroWords n (left - 1) := by
  have hrest : ∀ k : Nat, decide (k + 1 + 1 = left) = decide (k + 1 = left - 1) := fun k => by
    rw [decide_eq_decide]
    omega
  simp [zeroWords, List.range_succ_eq_map, beq_one_eq_decide, hrest]

theorem runFrames_of_idle (n left : Nat) {s : State} (hv : ∀ i : Fin 8, (s.voice i).active = false)
    (hoff : s.echoOn = false) (hgain : inRange s.masterGain Lit.zero Lit.one = true) :
    runFrames n left s = .next { s with out := s.out ++ zeroWords n left } := by
  induction n generalizing left s with
  | zero => simp [zeroWords]
  | succ n ih =>
    rw [runFrames_succ (frame_of_idle _ hv hoff hgain), ih (left - 1) (s := s.emit _) hv hoff hgain, zeroWords_succ,
      State.emit_out, List.append_assoc]
    rfl

/-- Settles O33: an idle block is a run of idle frames. -/
theorem idleBlockRendersZeros : Obligations.IdleBlockRendersZeros :=
  fun s hv hoff hgain => runFrames_of_idle s.cfg.blockSize s.cfg.blockSize hv hoff hgain

/-- Within the bounds the voice sum is finite, so the master gain at zero makes the mixed sample zero (R213). -/
theorem sentWord_of_zero_gain {s : State} (h : BoundsInv s) (hoff : s.echoOn = false)
    (hgain : fle s.masterGain Lit.zero = true) : sentWord s = 0#32 := by
  obtain ⟨hsrc, ⟨-, hrange, -⟩, -⟩ := boundsInv_iff.mp h
  obtain ⟨-, hsum⟩ := voiceSum_ok hsrc
  obtain ⟨-, hn, -, hge, -⟩ := inRange_iff.mp hrange
  have hle := (fle_iff_units hn (by decide)).mp hgain
  have hzero : units s.masterGain = 0 := le_antisymm (units_zero ▸ hle) (units_zero ▸ hge)
  have hnorm : magLe (fmul (voiceSum s).sum normFactor) c9 = true :=
    magLe_fmul hsum (B := normFactor) (by decide) (by decide +kernel)
  refine frameWord_of_zero (by simp [hoff]) ?_
  rw [mixed, voiceSum_masterGain]
  exact units_fmul_eq_zero (isFinite_of_magLe hnorm (by decide)) (isFinite_of_unit hrange) (Or.inr hzero)

/-- What a render at gain zero keeps: the bounds, the echo off, the gain, and only zeros sent. -/
structure SilentSince (s u : State) : Prop where
  bounds : BoundsInv u
  off : u.echoOn = false
  gain : u.masterGain = s.masterGain
  zeros : Sends (· = 0#32) s u

theorem SilentSince.frame {last : Bool} {s u v : State} (hgain : fle s.masterGain Lit.zero = true)
    (hf : frame last u = .next v) (h : SilentSince s u) : SilentSince s v where
  bounds := boundsInv_frame hf h.bounds
  off := (frame_echoOn hf).trans h.off
  gain := by
    obtain ⟨vs, l, m, k, w, rfl⟩ := frame_state hf
    exact h.gain
  zeros := h.zeros.trans (.of_frame hf (sentWord_of_zero_gain h.bounds h.off (h.gain ▸ hgain)))

/-- Settles O34, frame by frame: the signal bounds keep every voice sum finite. -/
theorem zeroGainRendersZeros : Obligations.ZeroGainRendersZeros := by
  intro s h hoff hgain
  obtain ⟨t, ht⟩ := (EchoReady.of_off hoff).runFrames_completes s.cfg.blockSize s.cfg.blockSize
  have hsilent : SilentSince s t :=
    runFrames_induction (P := SilentSince s) (fun _ _ _ => SilentSince.frame hgain) ht ⟨h, hoff, rfl, .of_out_eq rfl⟩
  obtain ⟨w, hout, hw⟩ := hsilent.zeros
  exact ⟨t, w, ht, hout, hw⟩

end Sys2Proof.RenderBlock
end

section
/-! SUPPORT. Splitting a block (R213 item 5). No frame reads the block size or its own mark, so a run of frames from the
state with the block boundaries forgotten is the run with them, forgotten after; and unmarked runs compose. -/

namespace Sys2Proof.BlockSplitting

open Sys2Proof.Machine Sys2Proof.RenderBlock

/-- The block boundaries forgotten in the state of a running sum. -/
def forgetSum (p : Sum) : Sum := { sum := p.sum, state := p.state.forgetBlocks }

/-- The block boundaries forgotten in an outcome. -/
def forgetOutcome : Host.Outcome State Fault Refusal → Host.Outcome State Fault Refusal
  | .next s => .next s.forgetBlocks
  | .fault r => .fault r
  | .refused r => .refused r

theorem forgetOutcome_eq_next {o : Host.Outcome State Fault Refusal} {t : State}
    (h : forgetOutcome o = .next t) : ∃ u, o = .next u ∧ u.forgetBlocks = t := by
  cases o with
  | next u => exact ⟨u, rfl, by injection h⟩
  | fault r => cases h
  | refused r => cases h

/-- Forgetting the boundaries commutes with what forgets them at every step. -/
theorem forgetOutcome_andThen {f g : State → Host.Outcome State Fault Refusal}
    (h : ∀ u, forgetOutcome (f u) = g u.forgetBlocks) (o : Host.Outcome State Fault Refusal) :
    forgetOutcome (andThen o f) = andThen (forgetOutcome o) g := by
  cases o with
  | next u => exact h u
  | fault r => rfl
  | refused r => rfl

/-! A frame (R205). -/

/-- The envelope and the presets do not read the block size. -/
theorem voiceFrame_forgetBlocks (s : State) (v : Voice) (lcg : BitVec 32) :
    voiceFrame s.forgetBlocks.cfg s.forgetBlocks.rom s.forgetBlocks.preset v lcg =
      voiceFrame s.cfg s.rom s.preset v lcg := rfl

theorem addVoice_forgetSum (p : Sum) (i : Fin 8) : addVoice (forgetSum p) i = forgetSum (addVoice p i) := by
  simp only [addVoice, forgetSum, voiceFrame_forgetBlocks]
  rfl

theorem voiceSum_forgetBlocks (s : State) : voiceSum s.forgetBlocks = forgetSum (voiceSum s) :=
  List.foldl_hom (l := slots) (init := { sum := Lit.zero, state := s }) forgetSum addVoice_forgetSum

theorem echoNext_forgetBlocks (s : State) (x : F32) :
    echoNext s.forgetBlocks x = (echoNext s x).forgetBlocks := by
  rw [echoNext, echoNext, apply_ite State.forgetBlocks]
  rfl

theorem emit_forgetBlocks (s : State) (w : FrameWord) (last : Bool) :
    s.forgetBlocks.emit { data := w, last := false } = (s.emit { data := w, last := last }).forgetBlocks := by
  simp [State.emit, State.forgetBlocks]

/-- With its word unmarked, the end of a frame is that of the marked one, forgotten. -/
theorem finishFrame_forgetSum (last : Bool) (p : Sum) :
    finishFrame false (forgetSum p) = (finishFrame last p).forgetBlocks := by
  have hend : finishFrame false (forgetSum p) = (echoNext p.state.forgetBlocks (mixed p.state p.sum)).emit
      { data := frameWord p.state (mixed p.state p.sum), last := false } := rfl
  rw [hend, echoNext_forgetBlocks, emit_forgetBlocks _ _ last, finishFrame]

theorem frame_forgetBlocks (last : Bool) (s : State) :
    forgetOutcome (frame last s) = frame false s.forgetBlocks := by
  have hreach : echoReachable (voiceSum s.forgetBlocks).state = echoReachable (voiceSum s).state := by
    rw [voiceSum_forgetBlocks]
    rfl
  rw [frame, frame, hreach]
  split_ifs
  · rw [voiceSum_forgetBlocks, finishFrame_forgetSum last]
    rfl
  · rfl

/-- A run of frames with nothing left of the block marks no word. -/
theorem runFrames_forgetBlocks (n left : Nat) (s : State) :
    forgetOutcome (runFrames n left s) = runFrames n 0 s.forgetBlocks := by
  induction n generalizing left s with
  | zero => rfl
  | succ n ih =>
    rw [runFrames, forgetOutcome_andThen (ih (left - 1)), frame_forgetBlocks]
    rfl

/-- A block of any size, its boundaries forgotten, is an unmarked run of frames. -/
theorem exec_render_withBlockSize (s : State) (n : Nat) :
    forgetOutcome (exec .render (s.withBlockSize n)) = runFrames n 0 s.forgetBlocks :=
  runFrames_forgetBlocks n n (s.withBlockSize n)

/-- Settles O36: the unmarked run of `a + b` frames is that of `a` and then that of `b`. -/
theorem splittingABlockChangesNoSample : Obligations.SplittingABlockChangesNoSample := by
  intro s a b t ht
  have hrun : runFrames (a + b) 0 s.forgetBlocks = .next t.forgetBlocks := by
    rw [← exec_render_withBlockSize, ht]
    rfl
  rw [runFrames_add, Nat.zero_sub] at hrun
  obtain ⟨x, hx, hxt⟩ := andThen_eq_next hrun
  obtain ⟨u, hu, rfl⟩ := forgetOutcome_eq_next ((exec_render_withBlockSize s a).trans hx)
  obtain ⟨v, hv, hvt⟩ := forgetOutcome_eq_next ((exec_render_withBlockSize u b).trans hxt)
  exact ⟨u, v, hu, hv, hvt⟩

end Sys2Proof.BlockSplitting
end

section
/-! SUPPORT. The input ports (R97 to R100, R255): the event each kind of edge gives, the `Reset` event (R275), and a
render cut short by it (R276). -/

namespace Sys2Proof.PortEvents

open Sys2Proof.Machine Sys2Proof.RenderBlock

/-! The event accepted at one edge, in the order of R255. -/

section Accept

variable {e : PortEdge} (rest : List PortEdge)

theorem accept_of_rst (hrst : e.rst = true) : accept (e :: rest) = (.reset, heldCommand e.command rest) := if_pos hrst

theorem accept_of_request {r : RenderRequest} (hrst : e.rst = false) (hrequest : e.request = some r) :
    accept (e :: rest) = (requestEvent r, heldCommand e.command rest) := by
  simp [accept, hrst, hrequest]

theorem accept_of_command {w : CommandWord} (hrst : e.rst = false) (hrequest : e.request = none)
    (hcommand : e.command = some w) : accept (e :: rest) = (.word (.cmd w), rest) := by
  simp [accept, hrst, hrequest, hcommand]

theorem accept_of_nothing (hrst : e.rst = false) (hrequest : e.request = none) (hcommand : e.command = none) :
    accept (e :: rest) = (.idle, rest) := by
  simp [accept, hrst, hrequest, hcommand]

end Accept

/-! The step at one edge. -/

theorem step_of_accept {s : State} {ev : Event} {rest : List PortEdge} (h : accept s.ports = (ev, rest)) :
    step s = applyEvent ev (s.setPorts rest) := by
  rw [step, h]

theorem decode_request (a : Bool) : decode (.request a) = .instr (if a then .render else .renderSkip) := by
  cases a <;> rfl

/-- A word that decodes to an instruction runs it (R81, R89). -/
theorem applyEvent_word {w : PortWord} {i : Instr} (h : decode w = .instr i) (s : State) :
    applyEvent (.word w) s = exec i s := by
  simp only [applyEvent, runWord, h]

theorem step_of_rst {s : State} {e : PortEdge} {rest : List PortEdge} (hports : s.ports = e :: rest)
    (hrst : e.rst = true) : step s = .next (s.setPorts (heldCommand e.command rest)).afterReset :=
  step_of_accept (hports ▸ accept_of_rst rest hrst)

/-- Settles O6: each clause is one case of `accept`, and the event it gives applied. -/
theorem portsAcceptResetThenRenderThenCommand : Obligations.PortsAcceptResetThenRenderThenCommand := by
  intro s e rest hports
  refine ⟨step_of_rst hports, fun a hrst hrequest => ?_, fun w i hrst hrequest hcommand hdecode => ?_,
    fun hrst hrequest hcommand => ?_⟩
  · rw [step_of_accept (hports ▸ accept_of_request rest hrst hrequest)]
    exact applyEvent_word (decode_request a) _
  · rw [step_of_accept (hports ▸ accept_of_command rest hrst hrequest hcommand)]
    exact applyEvent_word hdecode _
  · exact step_of_accept (hports ▸ accept_of_nothing rest hrst hrequest hcommand)

/-! The `Reset` event (R275). -/

/-- Settles O8: the edge that only raises `rst` is the `Reset` event, and no command is held at it. -/
theorem resetSetsEveryStateElement : Obligations.ResetSetsEveryStateElement := by
  intro s rest hports
  exact ⟨_, step_of_rst hports rfl, State.voice_afterReset _, rfl, rfl, rfl, rfl, rfl, rfl, rfl, rfl, rfl, rfl,
    EchoRam.read_nil, rfl, rfl, rfl, rfl⟩

/-! A render cut short (R276). -/

/-- What a run of frames leaves after a reset is what it started from, reset, with the words sent (R275). -/
theorem afterReset_rendered (s : State) (vs : Vector Voice 8) (l : BitVec 32) (m : EchoRam) (k : Nat)
    (o : List OutFrame) : (s.rendered vs l m k o).afterReset = { s.afterReset with out := s.out ++ o } := rfl

/-- A block is its first `k` frames and then the rest, so its cut after `k` sends the first `k` of its words. -/
theorem cutRender_of_render {s u : State} {k : Nat} (hk : k ≤ s.cfg.blockSize) (hu : exec .render s = .next u) :
    cutRender k s = .next { u.afterReset with out := u.out.take (s.out.length + k) } := by
  have hsplit := runFrames_add k (s.cfg.blockSize - k) s.cfg.blockSize s
  rw [Nat.add_sub_of_le hk, ← exec_render, hu] at hsplit
  obtain ⟨v, hv, hrest⟩ := andThen_eq_next hsplit.symm
  obtain ⟨vs, l, m, j, o, rfl, ho⟩ := runFrames_state hv
  obtain ⟨vs', l', m', j', o', rfl, -⟩ := runFrames_state hrest
  have hout : (s.out ++ o ++ o').take (s.out.length + k) = s.out ++ o := List.take_left' (by simp [ho])
  rw [cutRender, Nat.min_eq_left hk, hv, andThen_next, State.rendered_out, State.rendered_out, hout]
  simp only [afterReset_rendered]

/-- Settles O7: the edge gives the cut render, on the state that holds the command back. -/
theorem resetCutsARenderShort : Obligations.ResetCutsARenderShort := by
  intro s k c rest u hports hk hu
  rw [step_of_accept (hports ▸ accept_of_request rest rfl rfl)]
  exact cutRender_of_render hk hu

end Sys2Proof.PortEvents
end

section
/-! SUPPORT. Where a step can stop (R250, R253): NOTE_ON at the last age, and a frame whose echo cell does not exist. -/

namespace Sys2Proof.StepStops

open Sys2Proof.Machine Sys2Proof.StateInvariants Sys2Proof.RenderBlock Sys2Proof.PortEvents

/-- What may be answered from `s`: a next state, the refusal at the last age (R47, R253), or a fault with the echo on
outside the echo index invariant (R60, R62). -/
inductive LegalOutcome (s : State) : Host.Outcome State Fault Refusal → Prop
  | next (t : State) : LegalOutcome s (.next t)
  | refused (hage : s.ageCtr = 0xFFFFFFFF#32) : LegalOutcome s (.refused .ageCounterExhausted)
  | fault (r : Fault) (hon : s.echoOn = true) (hecho : ¬ EchoIndexInv s) : LegalOutcome s (.fault r)

namespace LegalOutcome

variable {s : State} {o : Host.Outcome State Fault Refusal}

/-- What is still presented at the ports does not matter to it. -/
theorem of_setPorts {p : List PortEdge} (h : LegalOutcome (s.setPorts p) o) : LegalOutcome s o := by
  cases h with
  | next t => exact .next t
  | refused hage => exact .refused hage
  | fault r hon hecho => exact .fault r hon hecho

theorem andThen_next {f : State → State} (h : LegalOutcome s o) :
    LegalOutcome s (andThen o (fun t => .next (f t))) := by
  cases h with
  | next t => exact .next (f t)
  | refused hage => exact .refused hage
  | fault r hon hecho => exact .fault r hon hecho

/-- Where neither stop is possible there is a next state. -/
theorem next_of_canStep (h : LegalOutcome s o) (hs : CanStep s) : ∃ t, o = .next t := by
  obtain ⟨hecho, hage⟩ := hs
  cases h with
  | next t => exact ⟨t, rfl⟩
  | refused hlast => exact absurd hlast hage
  | fault r hon hout => exact absurd hecho hout

theorem of_refused {r : Refusal} (h : LegalOutcome s (.refused r)) :
    r = .ageCounterExhausted ∧ s.ageCtr = 0xFFFFFFFF#32 := by
  cases h with
  | refused hage => exact ⟨rfl, hage⟩

theorem of_fault {r : Fault} (h : LegalOutcome s (.fault r)) : s.echoOn = true ∧ ¬ EchoIndexInv s := by
  cases h with
  | fault r hon hecho => exact ⟨hon, hecho⟩

end LegalOutcome

/-! A render never refuses (R211, R250). -/

theorem frame_ne_refused (last : Bool) (s : State) (r : Refusal) : frame last s ≠ .refused r := by
  rw [frame]
  split_ifs <;> simp

theorem runFrames_ne_refused (n left : Nat) (s : State) (r : Refusal) : runFrames n left s ≠ .refused r := by
  induction n generalizing left s with
  | zero => simp
  | succ n ih =>
    rw [runFrames]
    cases hf : frame (left == 1) s with
    | next u => exact ih (left - 1) u
    | fault e => simp [andThen]
    | refused e => exact absurd hf (frame_ne_refused _ s e)

/-- With the echo off or its registers in range a run of frames completes; outside, it may fault. -/
theorem legalOutcome_runFrames (n left : Nat) (s : State) : LegalOutcome s (runFrames n left s) := by
  by_cases hready : EchoReady s
  · obtain ⟨t, ht⟩ := hready.runFrames_completes n left
    exact ht ▸ .next t
  · obtain ⟨hon, hecho⟩ := Classical.not_imp.mp hready
    cases hrun : runFrames n left s with
    | next t => exact .next t
    | fault r => exact .fault r hon hecho
    | refused r => exact absurd hrun (runFrames_ne_refused n left s r)

/-! An instruction, an event, a step. -/

theorem legalOutcome_execNoteOn (note vel : BitVec 7) (s : State) : LegalOutcome s (execNoteOn note vel s) := by
  by_cases hage : s.ageCtr = 0xFFFFFFFF#32
  · exact execNoteOn_last_age note vel hage ▸ .refused hage
  · rw [execNoteOn, if_neg hage]
    exact .next _

/-- Of the instructions only NOTE_ON and RENDER can stop. -/
theorem legalOutcome_exec (i : Instr) (s : State) : LegalOutcome s (exec i s) := by
  cases i with
  | noteOn note vel => exact legalOutcome_execNoteOn note vel s
  | render => exact legalOutcome_runFrames _ _ s
  | nop | noteOff | allNotesOff | setPreset | setMasterGain | setEchoOn | setEchoMix | setEchoFb | setEchoMs
  | renderSkip => exact .next _

theorem legalOutcome_applyEvent (e : Event) (s : State) : LegalOutcome s (applyEvent e s) := by
  cases e with
  | idle => exact .next s
  | reset => exact .next s.afterReset
  | word w =>
    cases hdecode : decode w with
    | instr i => exact applyEvent_word hdecode s ▸ legalOutcome_exec i s
    | reserved op =>
      simp only [applyEvent, runWord, hdecode, execReserved]
      exact .next s
  | cutRender k => exact (legalOutcome_runFrames _ _ s).andThen_next

theorem legalOutcome_step (s : State) : LegalOutcome s (step s) := (legalOutcome_applyEvent _ _).of_setPorts

/-- Settles O60: every outcome of a step is legal, and each clause is one of the three cases. -/
theorem stepsStopOnlyAtTheLastAgeOrOutsideTheEchoInvariant :
    Obligations.StepsStopOnlyAtTheLastAgeOrOutsideTheEchoInvariant := by
  intro s
  have hlegal := legalOutcome_step s
  exact ⟨hlegal.next_of_canStep, fun r hr => (hr ▸ hlegal).of_refused, fun r hr => (hr ▸ hlegal).of_fault⟩

end Sys2Proof.StepStops
end

section
/-! SUPPORT. The reset state (R275) meets the invariants of R55, in every legal build with a conforming sine table; and
the build and the reference table of `State.reset` are such (R8, R17). -/

namespace Sys2Proof.ResetState

open Sys2Proof.Machine Sys2Proof.Rounding Sys2Proof.SignalBounds Sys2Proof.StepRules Sys2Proof.StateInvariants

/-! Every legal build. -/

theorem voice_resetOf (c : Config) (rom : List F32) (i : Fin 8) : (State.resetOf c rom).voice i = Voice.reset :=
  State.voice_afterReset (State.resetOf c rom) i

theorem rom_resetOf (c : Config) (rom : List F32) : (State.resetOf c rom).rom = rom := rfl

theorem wf_echoCap {c : Config} (h : c.wf = true) : 2 ≤ c.echoCap := by
  simp only [Config.wf, Config.sizesOk, Bool.and_eq_true, decide_eq_true_eq] at h
  tauto

theorem voicesInv_resetOf (c : Config) (rom : List F32) : VoicesInv (State.resetOf c rom) := by
  intro i
  rw [voice_resetOf]
  exact (slotRule_activeOk c).reset

theorem echoIndexInv_resetOf {c : Config} (h : 2 ≤ c.echoCap) (rom : List F32) : EchoIndexInv (State.resetOf c rom) := by
  obtain ⟨hlo, hhi⟩ := echoLenOf_bounds h c.rstEchoMs
  exact ⟨h, hlo, hhi, hlo⟩

theorem memoryInv_resetOf (c : Config) (rom : List F32) : MemoryInv (State.resetOf c rom) :=
  ⟨EchoRam.wf_nil, List.forall_mem_nil _⟩

theorem boundsInv_resetOf {c : Config} {rom : List F32} (h : c.wf = true) (hrom : RomInv (State.resetOf c rom)) :
    BoundsInv (State.resetOf c rom) := by
  have ⟨_, _, _, hentries, _⟩ := hrom
  obtain ⟨hgain, hmix, hfb, hms⟩ := wf_resets h
  refine boundsInv_iff.mpr ⟨⟨h, hentries, fun i => ?_⟩, ⟨h, hgain, hmix, hfb, hms, rfl⟩, hrom, List.forall_mem_nil _⟩
  rw [voice_resetOf]
  exact voiceOk_reset c

/-- Settles O10: a slot at its reset value is Off and silent, and the reset values of a legal build are in range. -/
theorem resetOfALegalBuildMeetsTheInvariants : Obligations.ResetOfALegalBuildMeetsTheInvariants := fun c rom h hrom =>
  ⟨voicesInv_resetOf c rom, agesInv_afterReset (State.resetOf c rom), echoIndexInv_resetOf (wf_echoCap h) rom,
    memoryInv_resetOf c rom, boundsInv_resetOf h hrom⟩

/-! The build of `State.reset`: the open parameters lie in their ranges by the type of their patterns (R8). -/

/-- Patterns without a sign bit and up to that of the infinity lie in the order of the values (R14). -/
theorem fle_of_toNat_le {a b : F32} (hb : b.toNat ≤ 0x7F800000) (hab : a.toNat ≤ b.toNat) : fle a b = true := by
  rw [fle_iff, isNan_eq_false_iff, isNan_eq_false_iff, orderKey_eq, orderKey_eq, signBit_eq, signBit_eq,
    magBits_eq_mod, magBits_eq_mod, decide_eq_false (by omega), decide_eq_false (by omega)]
  simp only [Bool.false_eq_true, if_false]
  omega

/-- A pattern below that of the infinity is a stage time (R8). -/
theorem timeOk_ofNat (n : Fin 0x7F800000) : Config.timeOk (BitVec.ofNat 32 n) = true := by
  have hn := n.isLt
  have hnat : (BitVec.ofNat 32 n.val).toNat = n.val := by rw [BitVec.toNat_ofNat]; omega
  have hfin : isFinite (BitVec.ofNat 32 n.val) = true := by
    rw [isFinite_iff, magBits_eq_mod, hnat]
    omega
  rw [Config.timeOk, hfin, fle_of_toNat_le (by omega) (Nat.zero_le _), Bool.and_self]

/-- A pattern up to that of 1.0 is a level (R8). -/
theorem inRange_unit_ofNat (n : Fin 0x3F800001) : inRange (BitVec.ofNat 32 n) Lit.zero Lit.one = true := by
  have hn := n.isLt
  have hnat : (BitVec.ofNat 32 n.val).toNat = n.val := by rw [BitVec.toNat_ofNat]; omega
  have hone : Lit.one.toNat = 0x3F800000 := rfl
  rw [inRange, fle_of_toNat_le (by omega) (Nat.zero_le _), fle_of_toNat_le (by omega) (by omega), Bool.and_self]

theorem envelopeOk_build : Config.build.envelopeOk = true := by
  have heps : isFinite Config.build.envEps = true ∧ flt Lit.zero Config.build.envEps = true := by decide
  simp only [Config.envelopeOk, Bool.and_eq_true]
  exact ⟨⟨⟨⟨⟨timeOk_ofNat _, timeOk_ofNat _⟩, timeOk_ofNat _⟩, inRange_unit_ofNat _⟩, heps.1⟩, heps.2⟩

theorem sizesOk_build : Config.build.sizesOk = true := by
  simp [Config.sizesOk, Config.build]

theorem wf_build : Config.build.wf = true := by
  have hrate : Config.build.rateOk = true := by decide
  have hpad : Config.build.padOk = true := by decide
  have hresets : Config.build.resetsOk = true := by decide
  rw [Config.wf, hrate, sizesOk_build, envelopeOk_build, hpad, hresets]
  rfl

/-! The reference table: every entry is a value of the first quarter period, with a sign (R17, R114). -/

/-- The fixed-point sine of the first quarter period does not exceed 1. -/
theorem fixSin_quarter_le : ∀ q < 257, fixSin (2 * fixPi * q / 2 ^ 10) ≤ fixOne := by decide +kernel

/-- An entry rounds a magnitude of the first quarter, of either sign, and 1.0 is an F32. -/
theorem magLe_sinRef (k : Nat) : magLe (sinRef 10 k) Lit.one = true := by
  have hquarter : min (k % (2 ^ 10 / 2)) (2 ^ 10 / 2 - k % (2 ^ 10 / 2)) < 257 := by omega
  have hsin := fixSin_quarter_le _ hquarter
  refine magLe_of_rounds (rounds_rn _ _ (Nat.two_pow_pos 256)) (by decide) ?_
  rw [units_one]
  have habs : ∀ (neg : Bool) (n : Nat), |if neg then -(n : Int) else n| = n := by
    rintro (_ | _) n <;> simp
  rw [habs]
  exact_mod_cast (Nat.mul_le_mul_right (2 ^ 149) hsin).trans_eq (Nat.mul_comm _ _)

theorem length_sinRomRef (bits : Nat) : (sinRomRef bits).length = 2 ^ bits := by
  rw [sinRomRef, List.length_map, List.length_range]

/-- The conditions on a table, read off its logarithmic size (R17, R49). -/
theorem romInv_resetOf {c : Config} {rom : List F32} {bits : Nat} (hlen : rom.length = 2 ^ bits) (hlo : 2 ≤ bits)
    (hhi : bits ≤ 23) (hentries : ∀ x ∈ rom, magLe x Lit.one = true) (hzero : rom[0]? = some 0#32) :
    RomInv (State.resetOf c rom) := by
  have hlog : Nat.log2 rom.length = bits := by rw [hlen, Nat.log2_two_pow]
  exact ⟨hlen.trans (congrArg (2 ^ ·) hlog.symm), hlo.trans_eq hlog.symm, hlog.trans_le hhi,
    List.all_eq_true.mpr hentries, hzero⟩

theorem romInv_reference (c : Config) : RomInv (State.resetOf c (sinRomRef 10)) := by
  refine romInv_resetOf (length_sinRomRef 10) (by omega) (by omega) (fun x hx => ?_) (by decide +kernel)
  obtain ⟨k, -, rfl⟩ := List.mem_map.mp hx
  exact magLe_sinRef k

/-- Settles O11: `State.reset` is the reset state of a legal build with a conforming table. -/
theorem resetMeetsTheInvariants : Obligations.ResetMeetsTheInvariants := by
  rw [Obligations.ResetMeetsTheInvariants, State.reset]
  exact resetOfALegalBuildMeetsTheInvariants Config.build (sinRomRef 10) wf_build (romInv_reference _)

/-- The echo length of 30.0 ms at 44100 frames a second (R197). -/
theorem echoLenOf_build : echoLenOf Config.build Lit.c30 = 1323 := by decide +kernel

/-- Settles O9: the defaults of R8 read off the build, and the echo length computed from them. -/
theorem resetStateOfTheDefaultBuild : Obligations.ResetStateOfTheDefaultBuild := by
  have hlen : State.reset.rom.length = 1024 := by
    rw [State.reset, rom_resetOf, length_sinRomRef]
    norm_num
  refine ⟨rfl, rfl, rfl, rfl, rfl, rfl, echoLenOf_build, rfl, rfl, rfl, hlen, fun i => ?_, rfl⟩
  rw [State.reset, voice_resetOf]
  rfl

end Sys2Proof.ResetState
end
